-- ==== Sys2Proof/Word.lean ====
section
/-! DEFINITION. The bit-vector types of the engine: bytes of buffer memory, 32-bit registers and the 64-bit
container a host access of up to eight bytes travels in (rules R24, R50, R53). -/

namespace Sys2Proof

/-- A byte of buffer memory (rule R50) and an entry of the LUT memory (rule R37). -/
abbrev Byte := BitVec 8

/-- A control or status register, and a command word (rules R24, R70). -/
abbrev Word := BitVec 32

/-- The data of one host access, at most eight bytes (rules R53, R79). -/
abbrev DWord := BitVec 64

end Sys2Proof
end

