-- ==== Sys2Proof/Syntax.lean ====
section
/-! DEFINITION. The commands of the engine, one constructor per row of the opcode table (rules R3, R71). A command
word carries no immediates and no register fields (rule R74), so no constructor has an argument. -/

namespace Sys2Proof

/-- The eight commands (rule R71). -/
inductive Instr where
  /-- Parse a BMP stream and copy its pixel buffer out (rule R90). -/
  | decode
  /-- Write a BMP stream for a pixel buffer (rule R92). -/
  | encode
  /-- Replace every pixel by its luminance (rule R110). -/
  | gray
  /-- Count the channel-0 intensities (rule R120). -/
  | hist
  /-- Compute the truncated-CDF equalization map (rule R121). -/
  | lut
  /-- Map every pixel through the LUT (rule R122). -/
  | remap
  /-- HIST, LUT and REMAP as one command (rule R123). -/
  | equalize
  /-- Thresholded Sobel edge map (rule R140). -/
  | sobel
deriving DecidableEq, Repr

end Sys2Proof
end

