-- ==== Sys2Proof/WellFormed.lean ====
section
/-! DEFINITION. When a command word's fields are those of a command (rules R70, R71, R72), and when a command is well
formed. -/

namespace Sys2Proof

/-- The two fields of a command word (rule R70). -/
structure CmdFields where
  /-- Bits 7:0, the opcode. -/
  opc : BitVec 8
  /-- Bits 31:8, reserved, must be 0. -/
  rsv : BitVec 24
deriving DecidableEq, Repr

/-- The opcode is one of 0x01 .. 0x08 (rule R71). -/
def CmdFields.opcDefined (f : CmdFields) : Bool := decide (1 ≤ f.opc.toNat) && decide (f.opc.toNat ≤ 8)

/-- The reserved field is 0 (rule R70). -/
def CmdFields.rsvZero (f : CmdFields) : Bool := decide (f.rsv = 0#24)

/-- The fields of a legal command word: every other word is illegal (rule R73). -/
def CmdFields.wellFormed (f : CmdFields) : Bool := f.opcDefined && f.rsvZero

/-- A command has no operand field that could be out of range (rule R74), so every constructor is well formed; the
checks on operands are made at completion, on the registers (rule R166). -/
def Instr.wellFormed : Instr → Bool
  | .decode | .encode | .gray | .hist | .lut | .remap | .equalize | .sobel => true

end Sys2Proof
end

