-- ==== Sys2Proof/Decode.lean ====
section
/-! DEFINITION. Decoding of a command word, total on every 32-bit word (rules R70 to R73), and after it the encoder. -/

namespace Sys2Proof

/-- Why a command word is illegal (rule R72). -/
inductive DecodeError where
  /-- BAD_COMMAND detail 1: the opcode is none of 0x01 .. 0x08. -/
  | reservedOpcode
  /-- BAD_COMMAND detail 2: bits 31:8 are not 0 and the opcode is valid. -/
  | reservedBits
deriving DecidableEq, Repr

/-- What decoding a word gives. -/
inductive Decoded where
  | command (i : Instr)
  | illegal (e : DecodeError)
deriving DecidableEq, Repr

/-- The fields of a command word: OPC = w[7:0], RSV = w[31:8] (rule R70). -/
def CmdFields.ofWord (w : Word) : CmdFields := { opc := w.extractLsb' 0 8, rsv := w.extractLsb' 8 24 }

/-- The opcode map (rule R71); every other value is reserved. -/
def instrOfOpc (opc : BitVec 8) : Option Instr :=
  match opc.toNat with
  | 1 => some .decode
  | 2 => some .encode
  | 3 => some .gray
  | 4 => some .hist
  | 5 => some .lut
  | 6 => some .remap
  | 7 => some .equalize
  | 8 => some .sobel
  | _ => none

/-- Rule R72: a reserved opcode is reported before reserved bits. -/
def decode (w : Word) : Decoded :=
  match instrOfOpc (CmdFields.ofWord w).opc with
  | none => .illegal .reservedOpcode
  | some i => if (CmdFields.ofWord w).rsvZero then .command i else .illegal .reservedBits

/-- The opcode of a command (rule R71). -/
def opcOfInstr : Instr → BitVec 8
  | .decode => 0x01#8
  | .encode => 0x02#8
  | .gray => 0x03#8
  | .hist => 0x04#8
  | .lut => 0x05#8
  | .remap => 0x06#8
  | .equalize => 0x07#8
  | .sobel => 0x08#8

/-- The fields of a command's word (rule R70). -/
def fieldsOfInstr (i : Instr) : CmdFields := { opc := opcOfInstr i, rsv := 0#24 }

/-- The word with the given fields (rule R70). -/
def CmdFields.toWord (f : CmdFields) : Word := f.rsv ++ f.opc

/-- The command word of a command (rules R70, R71). -/
def encode (i : Instr) : Word := (fieldsOfInstr i).toWord

/-- The command the decoder reads from a word given in the numbering of the opcode table: a command is one 32-bit word
(rule R70), so the first `nbits` bits of `w` are the low bits of that word and the others are 0. -/
def decodeTableWord (nbits w : Nat) : Option Instr :=
  match decode (BitVec.ofNat 32 (w % 2 ^ nbits)) with
  | .command i => some i
  | .illegal _ => none

end Sys2Proof
end

