-- ==== Sys2Proof/Config.lean ====
section
/-! DEFINITION. What an implementation fixes (the OPEN parameters of the spec) and the free values: constants with no
body, so that no proof can see what they are. -/

namespace Sys2Proof

/-- `PIXOFF_MODE` (rule R7): where DECODE reads the pixel data. -/
inductive PixoffMode where
  /-- At the pixel-data-offset field of the file header. -/
  | header
  /-- At byte 54, directly after the two headers. -/
  | fixed54
deriving DecidableEq, Repr, Inhabited

/-- The OPEN parameters of the spec. `MEM_SIZE` and `MAX_DIM` are stored less one, so that every value of the type is in
the range the spec gives and every value of that range is a value of the type. -/
structure Params where
  /-- `MEM_SIZE - 1` (rule R5). -/
  memSizeLessOne : BitVec 32
  /-- `MAX_DIM - 1` (rule R6). -/
  maxDimLessOne : Fin 32767
  /-- `PIXOFF_MODE` (rule R7). -/
  pixoffMode : PixoffMode
  /-- `CSR_BASE` (rule R9); no rule depends on it. -/
  csrBase : Nat
  /-- `IRQ_LINE` (rule R171); no rule depends on it. -/
  irqLine : Nat
deriving DecidableEq, Repr, Inhabited

/-- `MEM_SIZE`, 1 .. 2^32 (rule R5). -/
def Params.memSize (p : Params) : Nat := p.memSizeLessOne.toNat + 1

/-- `MAX_DIM`, 1 .. 32767 (rule R6). -/
def Params.maxDim (p : Params) : Nat := p.maxDimLessOne.val + 1

/-- The parameters of the machine that `State.reset` describes: OPEN, so no value (log entry 1). -/
opaque Config.params : Params

/-- Free value: what a byte of the destination window of an abandoned command holds (rule R191 (a), I11; log entry 4). -/
opaque Config.freeByte : Nat → Byte

/-- Free value: what a host read of HIST or LUT returns while HIST, LUT or EQUALIZE is BUSY (rule R195, I13; log
entry 5). -/
opaque Config.freeWord : Nat → Word

/-- Free value: how many host accesses come between an issue and its completion (rules R161, R198, I16; log entry 3). -/
opaque Config.freeDelay : Nat → Nat

end Sys2Proof
end

