-- ==== Sys2Proof/Machine/State.lean ====
section
/-! DEFINITION. The state of the machine: everything rule R40 lists, the buffer memory (rule R39), the OPEN parameters
and the host program that has still to run; the faults, the refusals and the state after reset. -/

namespace Sys2Proof.Machine

/-- The engine's phase (rule R23). -/
inductive Phase where
  | idle
  | busy
deriving DecidableEq, Repr

/-- How wide one host access is (rules R53, R57, R79). -/
inductive Width where
  | b8
  | b16
  | b32
  | b64
deriving DecidableEq, Repr

/-- One operation of a host program (rule R79), or of the platform's reset input (rule R190). A register access names
its offset in the 4 KiB window (rules R9, R24); a memory access names the engine address (rule R50). -/
inductive HostOp where
  /-- A write to the register window: `WR` when it is an aligned 32-bit access. -/
  | csrWrite (w : Width) (off : BitVec 12) (v : Word)
  /-- A read of the register window: `RD` when it is an aligned 32-bit access. -/
  | csrRead (w : Width) (off : BitVec 12)
  /-- `POLL`: repeat the read until the result AND mask is the value. -/
  | csrPoll (off : BitVec 12) (mask value : Word)
  /-- A write of the low bytes of `v` to buffer memory, one access. -/
  | memWrite (w : Width) (addr : Nat) (v : DWord)
  /-- A read of buffer memory, one access. -/
  | memRead (w : Width) (addr : Nat)
  /-- The platform asserts the engine's reset input (rule R190; log entry 10). -/
  | platformReset
deriving DecidableEq, Repr

/-- The errors a command can end with, one constructor per row of rule R165's table (I8: no reserved code has one). -/
inductive EngineError where
  /-- UNSUPPORTED_FORMAT 1: signature bytes. -/
  | badSignature
  /-- UNSUPPORTED_FORMAT 2: bits per pixel are not 24. -/
  | badBitDepth
  /-- UNSUPPORTED_FORMAT 3: compression is not 0. -/
  | compressedData
  /-- UNSUPPORTED_FORMAT 4: planes are not 1. -/
  | multiplePlanes
  /-- UNSUPPORTED_FORMAT 5: colors used is not 0. -/
  | indexedColor
  /-- IO_FAILURE 1: source window outside buffer memory. -/
  | srcOutside
  /-- IO_FAILURE 2: destination window outside buffer memory. -/
  | dstOutside
  /-- IO_FAILURE 3: source window shorter than the bytes to read. -/
  | srcShort
  /-- IO_FAILURE 4: destination window shorter than the bytes to write. -/
  | dstShort
  /-- BAD_DIMENSION 1: width outside 1 .. MAX_DIM. -/
  | badWidth
  /-- BAD_DIMENSION 2: height outside 1 .. MAX_DIM. -/
  | badHeight
  /-- BAD_COMMAND 1: reserved opcode. -/
  | reservedOpcode
  /-- BAD_COMMAND 2: reserved bits 31:8 nonzero, opcode valid. -/
  | reservedBits
  /-- OVERLAP 0: source and destination windows share a byte. -/
  | overlap
  /-- NO_HISTOGRAM 0: no histogram counted since reset. -/
  | noHistogram
deriving DecidableEq, Repr

/-- Buffer memory: the bytes that differ from what an unlisted address reads as, addresses strictly rising. -/
abbrev Memory := List Host.Cell

/-- The state. The fields down to `lut` are rule R40's table; `mem` is rule R39's buffer memory; `params` are the OPEN
parameters; the last four are the model's own (log entries 2, 3, 5, 11). -/
structure State where
  /-- Engine phase; STATUS.BUSY reads 1 exactly when it is `busy` (rule R23). -/
  phase : Phase
  /-- CTRL.IRQ_EN (rule R25). -/
  irqEn : Bool
  /-- STATUS.DONE (rule R26). -/
  done : Bool
  /-- STATUS.ERR (rule R26). -/
  err : Bool
  /-- STATUS.DROP (rules R26, R33). -/
  drop : Bool
  /-- STATUS.ERRCODE (rules R26, R165). -/
  errCode : BitVec 4
  /-- STATUS.ERRDETAIL (rules R26, R165). -/
  errDetail : BitVec 4
  /-- CMD (rule R27). -/
  cmd : Word
  /-- SRC_ADDR (rule R28). -/
  srcAddr : Word
  /-- SRC_LEN (rule R28). -/
  srcLen : Word
  /-- DST_ADDR (rule R28). -/
  dstAddr : Word
  /-- DST_LEN (rule R28). -/
  dstLen : Word
  /-- WIDTH (rule R29). -/
  width : Word
  /-- HEIGHT (rule R29). -/
  height : Word
  /-- OUT_LEN (rule R31). -/
  outLen : Word
  /-- HIST_N (rule R32). -/
  histN : Word
  /-- HIST[0..255] (rule R36). -/
  hist : Vector Word 256
  /-- LUT[0..255] (rule R37). -/
  lut : Vector Byte 256
  /-- Buffer memory M (rules R39, R50). -/
  mem : Memory
  /-- MEM_SIZE, MAX_DIM, PIXOFF_MODE, CSR_BASE, IRQ_LINE (rules R5, R6, R7, R9, R171); no step changes them. -/
  params : Params
  /-- The model's own: the host program still to run, next access first (rules R79, R199). -/
  host : List HostOp
  /-- The model's own: the values the host's reads returned, newest first (rule R79). -/
  hostReads : List DWord
  /-- The model's own: how many host accesses still come before the completion of the command that is BUSY (rule R161). -/
  wait : Nat
  /-- The model's own: how many free values have been drawn. -/
  draws : Nat
deriving DecidableEq, Repr

/-- Why a step stops with a fault. -/
inductive Fault where
  /-- Raised by a host access while BUSY: a write to a byte of the command's source or destination window, or a read of a
  byte of its destination window (rule R193). Safe: the run ends where the chip's outcome is unspecified. -/
  | hostRace
  /-- Raised by a host access to a buffer-memory address at or above MEM_SIZE, which names no byte (rule R50; log
  entry 8). Safe: the run ends. -/
  | noSuchAddress
deriving DecidableEq, Repr

/-- Why a step is refused. -/
inductive Refusal where
  /-- Raised by an arm of exec whose command has no meaning yet. Safe: the run ends. -/
  | notModelled (mnemonic : String)
  /-- Raised by a host access to the register window that is not an aligned 32-bit access: "a model gives any other CSR
  access no move (refused)" (rule R57). Safe: the run ends. -/
  | csrAccessForm
deriving DecidableEq, Repr

/-- The machine right after hard reset (rules R40, R190): every register at the value of rule R40's table, nothing listed
in memory, no host program placed. The parameters are the opaque ones. -/
def State.reset : State where
  phase := .idle
  irqEn := false
  done := false
  err := false
  drop := false
  errCode := 0#4
  errDetail := 0#4
  cmd := 0#32
  srcAddr := 0#32
  srcLen := 0#32
  dstAddr := 0#32
  dstLen := 0#32
  width := 0#32
  height := 0#32
  outLen := 0#32
  histN := 0#32
  hist := Vector.replicate 256 0#32
  lut := Vector.replicate 256 0#8
  mem := []
  params := Config.params
  host := []
  hostReads := []
  wait := 0
  draws := 0

end Sys2Proof.Machine
end

