-- ==== Sys2Proof/Machine/Flags.lean ====
section
/-! DEFINITION. The STATUS word and its bits, the error codes and details, and the interrupt level (rules R26, R38, R41,
R165). -/

namespace Sys2Proof.Machine

/-- ERRCODE of an error (rule R165). -/
def EngineError.code : EngineError → BitVec 4
  | .badSignature | .badBitDepth | .compressedData | .multiplePlanes | .indexedColor => 1#4
  | .srcOutside | .dstOutside | .srcShort | .dstShort => 2#4
  | .badWidth | .badHeight => 3#4
  | .reservedOpcode | .reservedBits => 4#4
  | .overlap => 5#4
  | .noHistogram => 6#4

/-- ERRDETAIL of an error (rule R165). -/
def EngineError.detail : EngineError → BitVec 4
  | .badSignature | .srcOutside | .badWidth | .reservedOpcode => 1#4
  | .badBitDepth | .dstOutside | .badHeight | .reservedBits => 2#4
  | .compressedData | .srcShort => 3#4
  | .multiplePlanes | .dstShort => 4#4
  | .indexedColor => 5#4
  | .overlap | .noHistogram => 0#4

/-- STATUS.BUSY reads 1 exactly when phase = BUSY (rule R23). -/
def State.busy (s : State) : Bool := decide (s.phase = .busy)

/-- The STATUS word as a read returns it (rule R26): BUSY, DONE, ERR, DROP in bits 0 to 3, ERRCODE in 11:8, ERRDETAIL in
15:12, every reserved bit 0 (rule R35). -/
def statusWord (s : State) : Word :=
  0#16 ++ s.errDetail ++ s.errCode ++ 0#4 ++ BitVec.ofBool s.drop ++ BitVec.ofBool s.err ++ BitVec.ofBool s.done
    ++ BitVec.ofBool s.busy

/-- The CTRL word as a read returns it (rule R25): IRQ_EN in bit 0; SRST and the reserved bits read 0. -/
def ctrlWord (s : State) : Word := 0#31 ++ BitVec.ofBool s.irqEn

/-- A host write of `v` to STATUS (rule R26): write-one-to-clear of DONE and DROP, every other bit ignored. -/
def writeStatus (s : State) (v : Word) : State :=
  { s with done := s.done && !v.getLsbD 1, drop := s.drop && !v.getLsbD 3 }

/-- A dropped host write sets STATUS.DROP and changes no register (rule R33). -/
def State.dropWrite (s : State) : State := { s with drop := true }

/-- The interrupt output, a level: DONE and IRQ_EN (rule R38). -/
def State.irq (s : State) : Bool := s.done && s.irqEn

end Sys2Proof.Machine
end

