-- ==== Sys2Proof/Machine/Ops.lean ====
section
/-! DEFINITION. The named operations over memory and registers: reading and writing buffer memory (rules R12, R50, R52),
issue and the two completions of a command (rules R160 to R162), hard and soft reset (rules R190, R191). -/

namespace Sys2Proof.Machine

/-! ### Buffer memory -/

/-- What a byte of buffer memory that is not listed reads as. The content at the start of a run is a launch parameter
(rules R39, R190): every content is a list of cells, so a claim about every state covers every content; this value is
that of `State.reset` alone (log entry 6). -/
def Memory.unlisted : Byte := 0#8

/-- `M[a]` (rule R12). -/
def Memory.read (m : Memory) (a : Nat) : Byte := (m.lookup a).getD Memory.unlisted

/-- The cells at other addresses. -/
def Memory.erase (m : Memory) (a : Nat) : Memory := m.filter fun c => c.1 != a

/-- Puts a cell before the first cell at a higher address. -/
def Memory.insert (a : Nat) (b : Byte) : Memory → Memory
  | [] => [(a, b)]
  | c :: m => if a < c.1 then (a, b) :: c :: m else c :: Memory.insert a b m

/-- `M[a] <- b` (rule R12), keeping the canonical form: the value of an unlisted byte is never listed. -/
def Memory.write (m : Memory) (a : Nat) (b : Byte) : Memory :=
  if b = Memory.unlisted then m.erase a else Memory.insert a b (m.erase a)

/-- Addresses strictly rising from the first cell on. -/
def Memory.rising : Memory → Bool
  | [] => true
  | [_] => true
  | c :: d :: m => decide (c.1 < d.1) && Memory.rising (d :: m)

/-- The canonical form: addresses strictly rising, no entry equal to what an unlisted address reads as. -/
def Memory.wf (m : Memory) : Bool := m.rising && m.all fun c => decide (c.2 ≠ Memory.unlisted)

/-- Every listed address is below `size`: rule R50's 0 .. MEM_SIZE-1. -/
def Memory.within (m : Memory) (size : Nat) : Bool := m.all fun c => decide (c.1 < size)

/-- `MemRead(addr, n)`: the sum of M[addr+i] * 2^(8i) for i < n, little-endian (rules R12, R52). -/
def memReadLE (m : Memory) (addr : Nat) : Nat → Nat
  | 0 => 0
  | n + 1 => (m.read addr).toNat + 256 * memReadLE m (addr + 1) n

/-- Byte `i` of a value, least significant first (rule R12). -/
def leByte (v i : Nat) : Byte := BitVec.ofNat 8 (v / 256 ^ i)

/-- The `n` bytes of a value, least significant first (rules R12, R52). -/
def leBytes (n v : Nat) : List Byte := (List.range n).map (leByte v)

/-- Writes `f 0`, …, `f (n-1)` to `addr`, …, `addr+n-1`, one byte after the other (log entry 13). -/
def Memory.fill (m : Memory) (addr : Nat) (f : Nat → Byte) : Nat → Memory
  | 0 => m
  | n + 1 => (Memory.fill m addr f n).write (addr + n) (f n)

/-- `MemWrite(addr, n, v)`: M[addr+i] <- (v div 2^(8i)) mod 256 for each i < n (rules R12, R52). -/
def memWriteLE (m : Memory) (addr n v : Nat) : Memory := m.fill addr (leByte v) n

/-- `MEM_SIZE` (rule R5). -/
def State.memSize (s : State) : Nat := s.params.memSize

/-- `MAX_DIM` (rule R6). -/
def State.maxDim (s : State) : Nat := s.params.maxDim

/-! ### The lifecycle of a command -/

/-- Issue of the word `v` while IDLE, with the number of host accesses that will come before the completion
(rule R160). -/
def State.issueAfter (s : State) (v : Word) (delay : Nat) : State :=
  { s with cmd := v, done := false, err := false, errCode := 0#4, errDetail := 0#4, phase := .busy, wait := delay }

/-- Issue (rule R160). The time to completion is bounded by no rule (rule R161): a free value (log entry 3). -/
def State.issue (s : State) (v : Word) : State :=
  { s.issueAfter v (Config.freeDelay s.draws) with draws := s.draws + 1 }

/-- Success completion (rule R161): ERR, ERRCODE and ERRDETAIL stay as the issue left them (log entry 16). -/
def State.succeed (s : State) : State := { s with phase := .idle, done := true, wait := 0 }

/-- Failure completion, `raise Error(CODE, DETAIL)` (rules R14, R162): the one operation every error goes through. -/
def State.fail (s : State) (e : EngineError) : State :=
  { s with outLen := 0#32, err := true, errCode := e.code, errDetail := e.detail, phase := .idle, done := true, wait := 0 }

/-- One check of a command: whether it fails, and the error it then raises (rule R166). -/
abbrev Check := Bool × EngineError

/-- The error of the first check that fails, if one does (rule R167). -/
def firstError : List Check → Option EngineError
  | [] => none
  | c :: cs => if c.1 then some c.2 else firstError cs

/-- A command's completion step: the first failing check ends it with that error and nothing else; if none fails, the
effect takes place and the command succeeds (rules R161, R162, R163, R167). -/
def State.complete (s : State) (checks : List Check) (effect : State) : Host.Outcome State Fault Refusal :=
  match firstError checks with
  | some e => .next (s.fail e)
  | none => .next effect.succeed

/-! ### Reset -/

/-- Every piece of engine state at the value of rule R40's table; buffer memory, the parameters and the host stay. -/
def State.engineReset (s : State) : State :=
  { s with
    phase := .idle, irqEn := false, done := false, err := false, drop := false, errCode := 0#4, errDetail := 0#4,
    cmd := 0#32, srcAddr := 0#32, srcLen := 0#32, dstAddr := 0#32, dstLen := 0#32, width := 0#32, height := 0#32,
    outLen := 0#32, histN := 0#32, hist := Vector.replicate 256 0#32, lut := Vector.replicate 256 0#8, wait := 0 }

/-- How many bytes of the destination window are bytes of buffer memory (rules R28, R50). -/
def State.dstBytesInMemory (s : State) : Nat := min s.dstLen.toNat (s.memSize - s.dstAddr.toNat)

/-- A running command is abandoned: every byte of its destination window holds a free value (rule R191 (a), I11; log
entry 4). While IDLE nothing is abandoned (rule R191 (b)). -/
def State.abandon (s : State) : State :=
  match s.phase with
  | .idle => s
  | .busy =>
    { s with
      mem := s.mem.fill s.dstAddr.toNat (fun i => Config.freeByte (s.draws + i)) s.dstBytesInMemory
      draws := s.draws + s.dstBytesInMemory }

/-- Soft reset: the running command is abandoned, with the window's addresses read before the registers reset, and the
engine state is reset (rule R191). -/
def State.softReset (s : State) : State := s.abandon.engineReset

/-- Hard reset by the platform's reset input (rule R190; while BUSY, log entry 10). -/
def State.hardReset (s : State) : State := s.abandon.engineReset

end Sys2Proof.Machine
end

