-- ==== Sys2Proof/Machine/Operands.lean ====
section
/-! DEFINITION. The operands of a command: signed dimensions, the row stride, the pixel helpers, the windows, and the
checks every command makes on them (rules R8, R11, R15, R28 to R30, R54, R65, R166, R167). -/

namespace Sys2Proof.Machine

/-! ### Constants (rule R8) -/

/-- `THRESHOLD`. -/
def threshold : Nat := 100

/-- `XYRES`. -/
def xyRes : Nat := 3780

/-- `HDR_LEN`: `FILE_HDR_LEN` 14 and `INFO_HDR_LEN` 40. -/
def hdrLen : Nat := 54

/-! ### Dimensions and layout -/

/-- `s32(u)`: a 32-bit value as two's complement (rule R11). -/
def s32 (u : Word) : Int := if u.toNat < 2 ^ 31 then (u.toNat : Int) else (u.toNat : Int) - 2 ^ 32

/-- `stride(W)` = ((3W + 3) div 4) * 4 (rules R8, R54). -/
def stride (w : Nat) : Nat := (3 * w + 3) / 4 * 4

/-- `pix(r, c)` in rows of `stride w` bytes (rule R15). -/
def pix (w r c : Nat) : Nat := r * stride w + 3 * c

/-- `W` for a command that reads WIDTH (rules R15, R29); used only after the check that it is in 1 .. MAX_DIM. -/
def State.imgW (s : State) : Nat := (s32 s.width).toNat

/-- `H` for a command that reads HEIGHT (rules R15, R29). -/
def State.imgH (s : State) : Nat := (s32 s.height).toNat

/-- `H * S`, the size of the pixel buffer (rules R15, R54). -/
def State.imgSize (s : State) : Nat := s.imgH * stride s.imgW

/-- Dimension `d` is in 1 .. `maxDim` (rules R6, R29). -/
def dimOk (maxDim : Nat) (d : Int) : Bool := decide (1 ≤ d) && decide (d ≤ maxDim)

/-- What STRIDE reads: derived from WIDTH, 0 when WIDTH is out of range (rule R30). -/
def strideReg (s : State) : Word := if dimOk s.maxDim (s32 s.width) then BitVec.ofNat 32 (stride s.imgW) else 0#32

/-- Channel 0 (blue) of pixel (r, c) of the source buffer (rules R53, R15). -/
def State.srcChannel (s : State) (r c ch : Nat) : Byte := s.mem.read (s.srcAddr.toNat + (pix s.imgW r c + ch))

/-- A new image of width `w`, byte by byte: at offset `o` of row r = o div S, the pixel's value in all three channels, and
0 in the padding bytes (rules R54, R56). -/
def imageByte (w : Nat) (pixel : Nat → Nat → Byte) (o : Nat) : Byte :=
  if o % stride w < 3 * w then pixel (o / stride w) (o % stride w / 3) else 0#8

/-- Writes a new image of the current dimensions to the destination window and records its size (rules R31, R56): the
effect shared by GRAY, REMAP, EQUALIZE and SOBEL. -/
def State.writeImage (s : State) (pixel : Nat → Nat → Byte) : State :=
  { s with
    mem := s.mem.fill s.dstAddr.toNat (imageByte s.imgW pixel) s.imgSize
    outLen := BitVec.ofNat 32 s.imgSize }

/-! ### Windows -/

/-- An access to the `n` bytes at `addr` touches the window of `len` bytes at `start` (rule R28: no wrap-around). -/
def touches (addr n start len : Nat) : Bool :=
  decide (0 < n) && decide (0 < len) && decide (addr < start + len) && decide (start < addr + n)

/-- `addr`, …, `addr+n-1` touch the source window. -/
def State.touchesSrc (s : State) (addr n : Nat) : Bool := touches addr n s.srcAddr.toNat s.srcLen.toNat

/-- `addr`, …, `addr+n-1` touch the destination window. -/
def State.touchesDst (s : State) (addr n : Nat) : Bool := touches addr n s.dstAddr.toNat s.dstLen.toNat

/-! ### Checks (rule R166) -/

/-- `CHK_DIM`: width before height (rule R167). -/
def chkDim (maxDim : Nat) (w h : Int) : List Check := [(!dimOk maxDim w, .badWidth), (!dimOk maxDim h, .badHeight)]

/-- `CHK_SRC_RANGE`. -/
def chkSrcRange (s : State) : Check := (decide (s.srcAddr.toNat + s.srcLen.toNat > s.memSize), .srcOutside)

/-- `CHK_DST_RANGE`. -/
def chkDstRange (s : State) : Check := (decide (s.dstAddr.toNat + s.dstLen.toNat > s.memSize), .dstOutside)

/-- `CHK_OVERLAP`. -/
def chkOverlap (s : State) : Check :=
  (decide (s.srcLen.toNat > 0) && decide (s.dstLen.toNat > 0)
    && decide (s.srcAddr.toNat < s.dstAddr.toNat + s.dstLen.toNat)
    && decide (s.dstAddr.toNat < s.srcAddr.toNat + s.srcLen.toNat), .overlap)

/-- `SRC short (n)`. -/
def chkSrcShort (s : State) (n : Nat) : Check := (decide (s.srcLen.toNat < n), .srcShort)

/-- `DST short (n)`. -/
def chkDstShort (s : State) (n : Nat) : Check := (decide (s.dstLen.toNat < n), .dstShort)

/-- The checks of a command that reads an image at the source and writes `out` bytes to the destination, in the order of
rule R167: ENCODE, GRAY, REMAP, EQUALIZE and SOBEL. -/
def imageChecks (s : State) (out : Nat) : List Check :=
  chkDim s.maxDim (s32 s.width) (s32 s.height)
    ++ [chkSrcRange s, chkDstRange s, chkOverlap s, chkSrcShort s s.imgSize, chkDstShort s out]

end Sys2Proof.Machine
end

