-- ==== Sys2Proof/Machine/Codec.lean ====
section
/-! DEFINITION. The BMP codec commands DECODE and ENCODE (40_codec.md; the stream's layout in 30_encoding.md, rules R75 to
R78). -/

namespace Sys2Proof.Machine

/-! ### DECODE (rule R90) -/

/-- The `n`-byte header field at offset `off` of the stream in the source window (rules R75, R76). -/
def State.field (s : State) (off n : Nat) : Nat := memReadLE s.mem (s.srcAddr.toNat + off) n

/-- The raw width field `wf` of the stream (rule R76). -/
def State.streamWidth (s : State) : Word := BitVec.ofNat 32 (s.field 18 4)

/-- The raw height field `hf` of the stream (rule R76). -/
def State.streamHeight (s : State) : Word := BitVec.ofNat 32 (s.field 22 4)

/-- `H * S` of the image the stream describes (rule R90). -/
def State.streamSize (s : State) : Nat := (s32 s.streamHeight).toNat * stride (s32 s.streamWidth).toNat

/-- `P`, where the pixel data starts (rules R7, R90). -/
def State.pixelOffset (s : State) : Nat :=
  match s.params.pixoffMode with
  | .header => s.field 10 4
  | .fixed54 => hdrLen

/-- The signature bytes are not 0x42, 0x4D (rule R75). -/
def State.signatureWrong (s : State) : Bool := decide (s.field 0 1 ≠ 0x42) || decide (s.field 1 1 ≠ 0x4D)

/-- DECODE's checks in the order of rules R78, R90 and R167. -/
def decodeChecks (s : State) : List Check :=
  [chkSrcRange s, chkDstRange s, chkOverlap s, chkSrcShort s hdrLen,
    (s.signatureWrong, .badSignature),
    (decide (s.field 28 2 ≠ 24), .badBitDepth),
    (decide (s.field 30 4 ≠ 0), .compressedData),
    (decide (s.field 26 2 ≠ 1), .multiplePlanes),
    (decide (s.field 46 4 ≠ 0), .indexedColor)]
    ++ chkDim s.maxDim (s32 s.streamWidth) (s32 s.streamHeight)
    ++ [chkSrcShort s (s.pixelOffset + s.streamSize), chkDstShort s s.streamSize]

/-- DECODE's effect: the pixel data is copied as stored, and WIDTH, HEIGHT and OUT_LEN are written (rule R90). -/
def decodeEffect (s : State) : State :=
  { s with
    mem := s.mem.fill s.dstAddr.toNat (fun i => s.mem.read (s.srcAddr.toNat + s.pixelOffset + i)) s.streamSize
    width := s.streamWidth
    height := s.streamHeight
    outLen := BitVec.ofNat 32 s.streamSize }

/-- DECODE (rule R90). -/
def execDecode (s : State) : Host.Outcome State Fault Refusal := s.complete (decodeChecks s) (decodeEffect s)

/-! ### ENCODE (rule R92) -/

/-- The file header ENCODE writes (rule R75): signature, total size, two reserved fields, pixel-data offset. -/
def fileHeader (size : Nat) : List Byte :=
  [0x42#8, 0x4D#8] ++ leBytes 4 (hdrLen + size) ++ leBytes 2 0 ++ leBytes 2 0 ++ leBytes 4 hdrLen

/-- The info header ENCODE writes (rule R76): header size, width, height, planes, bits per pixel, compression, image size,
both resolutions, colors used, important colors. -/
def infoHeader (width height : Word) (size : Nat) : List Byte :=
  leBytes 4 40 ++ leBytes 4 width.toNat ++ leBytes 4 height.toNat ++ leBytes 2 1 ++ leBytes 2 24 ++ leBytes 4 0
    ++ leBytes 4 size ++ leBytes 4 xyRes ++ leBytes 4 xyRes ++ leBytes 4 0 ++ leBytes 4 0

/-- The 54 header bytes of the stream ENCODE writes (rules R75, R76, R92). -/
def bmpHeader (width height : Word) (size : Nat) : List Byte := fileHeader size ++ infoHeader width height size

/-- Byte `i` of the stream ENCODE writes: the header, then the pixel buffer byte for byte (rules R77, R92). -/
def State.streamByte (s : State) (i : Nat) : Byte :=
  if i < hdrLen then (bmpHeader s.width s.height s.imgSize).getD i 0#8
  else s.mem.read (s.srcAddr.toNat + (i - hdrLen))

/-- ENCODE's checks: the destination must hold 54 + H*S bytes (rules R92, R167). -/
def encodeChecks (s : State) : List Check := imageChecks s (hdrLen + s.imgSize)

/-- ENCODE's effect (rule R92). -/
def encodeEffect (s : State) : State :=
  { s with
    mem := s.mem.fill s.dstAddr.toNat s.streamByte (hdrLen + s.imgSize)
    outLen := BitVec.ofNat 32 (hdrLen + s.imgSize) }

/-- ENCODE (rule R92). -/
def execEncode (s : State) : Host.Outcome State Fault Refusal := s.complete (encodeChecks s) (encodeEffect s)

end Sys2Proof.Machine
end

