-- ==== Sys2Proof/Machine/Gray.lean ====
section
/-! DEFINITION. The grayscale command GRAY (41_gray.md). -/

namespace Sys2Proof.Machine

/-- The luminance of a pixel, exactly: (299R + 587G + 114B) div 1000 (rule R110). -/
def luminance (blue green red : Byte) : Nat := (299 * red.toNat + 587 * green.toNat + 114 * blue.toNat) / 1000

/-- The value GRAY writes to the three channels of pixel (r, c) (rule R110). -/
def State.grayPixel (s : State) (r c : Nat) : Byte :=
  BitVec.ofNat 8 (luminance (s.srcChannel r c 0) (s.srcChannel r c 1) (s.srcChannel r c 2))

/-- GRAY (rule R110). -/
def execGray (s : State) : Host.Outcome State Fault Refusal :=
  s.complete (imageChecks s s.imgSize) (s.writeImage s.grayPixel)

end Sys2Proof.Machine
end

