-- ==== Sys2Proof/Machine/Histeq.lean ====
section
/-! DEFINITION. The histogram-equalization commands HIST, LUT, REMAP and EQUALIZE (42_histeq.md). -/

namespace Sys2Proof.Machine

/-! ### HIST (rule R120) -/

/-- The channel-0 intensities of the source image, once per pixel, row by row (rule R120). -/
def State.intensities (s : State) : List Byte :=
  (List.range s.imgH).flatMap fun r => (List.range s.imgW).map fun c => s.srcChannel r c 0

/-- HIST's checks: the destination window is not checked (rules R120, R167). -/
def histChecks (s : State) : List Check :=
  chkDim s.maxDim (s32 s.width) (s32 s.height) ++ [chkSrcRange s, chkSrcShort s s.imgSize]

/-- HIST's effect: every entry becomes the number of pixels of its intensity, HIST_N the number of pixels (rule R120). -/
def histEffect (s : State) : State :=
  { s with
    hist := Vector.ofFn fun k => BitVec.ofNat 32 (s.intensities.count (BitVec.ofNat 8 k.val))
    histN := BitVec.ofNat 32 (s.imgW * s.imgH)
    outLen := 0#32 }

/-- HIST (rule R120). -/
def execHist (s : State) : Host.Outcome State Fault Refusal := s.complete (histChecks s) (histEffect s)

/-! ### LUT (rule R121) -/

/-- `cum` after step k of rule R121's loop: the sum of HIST[0] to HIST[k]. -/
def cumulative (hist : Vector Word 256) (k : Nat) : Nat := ((hist.toList.take (k + 1)).map BitVec.toNat).sum

/-- `(255 * cum) div N` (rule R121). -/
def lutEntry (hist : Vector Word 256) (n k : Nat) : Nat := 255 * cumulative hist k / n

/-- LUT's check (rules R121, R167). -/
def lutChecks (s : State) : List Check := [(decide (s.histN = 0#32), .noHistogram)]

/-- LUT's effect (rule R121). -/
def lutEffect (s : State) : State :=
  { s with
    lut := Vector.ofFn fun k => BitVec.ofNat 8 (lutEntry s.hist s.histN.toNat k.val)
    outLen := 0#32 }

/-- LUT (rule R121). -/
def execLut (s : State) : Host.Outcome State Fault Refusal := s.complete (lutChecks s) (lutEffect s)

/-! ### REMAP (rule R122) -/

/-- `LUT[k]` for a byte k (rule R13). -/
def State.lutAt (s : State) (k : Byte) : Byte := s.lut.get (Fin.ofNat 256 k.toNat)

/-- The value REMAP writes to the three channels of pixel (r, c) (rule R122). -/
def State.remapPixel (s : State) (r c : Nat) : Byte := s.lutAt (s.srcChannel r c 0)

/-- REMAP's effect (rule R122). -/
def remapEffect (s : State) : State := s.writeImage s.remapPixel

/-- REMAP (rule R122). -/
def execRemap (s : State) : Host.Outcome State Fault Refusal := s.complete (imageChecks s s.imgSize) (remapEffect s)

/-! ### EQUALIZE (rule R123) -/

/-- EQUALIZE's effect: those of HIST, LUT and REMAP, one after the other (rule R123). -/
def equalizeEffect (s : State) : State := remapEffect (lutEffect (histEffect s))

/-- EQUALIZE: every check comes before the HIST effect (rule R123). -/
def execEqualize (s : State) : Host.Outcome State Fault Refusal :=
  s.complete (imageChecks s s.imgSize) (equalizeEffect s)

end Sys2Proof.Machine
end

