-- ==== Sys2Proof/Machine/Sobel.lean ====
section
/-! DEFINITION. The Sobel edge command SOBEL (43_sobel.md). -/

namespace Sys2Proof.Machine

/-- `isqrt`'s binary search: sets bits `k-1`, …, 0 of the root while its square does not exceed `n`. -/
def isqrtBits (n : Nat) : Nat → Nat → Nat
  | 0, r => r
  | k + 1, r => isqrtBits n k (if (r + 2 ^ k) * (r + 2 ^ k) ≤ n then r + 2 ^ k else r)

/-- `isqrt(n)`: the largest integer r with r * r <= n (rule R10). -/
def isqrt (n : Nat) : Nat := isqrtBits n (n.log2 / 2 + 1) 0

/-- The mask `Mx` (rules R8, R140). -/
def maskX : List Int := [-1, -2, -1, 0, 0, 0, 1, 2, 1]

/-- The mask `My` (rules R8, R140). -/
def maskY : List Int := [-1, 0, 1, -2, 0, 2, -1, 0, 1]

/-- The dot product of a mask with the 3x3 window of intensities, mask index 3i + j (rule R140). -/
def dotMask (mask : List Int) (window : Nat → Nat → Nat) : Int :=
  ((List.range 9).map fun n => mask.getD n 0 * (window (n / 3) (n % 3) : Int)).sum

/-- The edge value of a window: 255 when isqrt(Gx^2 + Gy^2) > THRESHOLD, else 0 (rules R140, R142). -/
def edgeValue (window : Nat → Nat → Nat) : Byte :=
  let gx := dotMask maskX window
  let gy := dotMask maskY window
  if threshold < isqrt (gx * gx + gy * gy).toNat then 0xFF#8 else 0x00#8

/-- The window whose centre is pixel (r, c), from channel offset 0 of the source buffer (rule R140). -/
def State.window (s : State) (r c : Nat) (i j : Nat) : Nat := (s.srcChannel (r - 1 + i) (c - 1 + j) 0).toNat

/-- The value SOBEL writes to the three channels of pixel (r, c): the edge value where a full 3x3 neighbourhood exists,
0 on the one-pixel border (rule R140). -/
def State.sobelPixel (s : State) (r c : Nat) : Byte :=
  if 1 ≤ r ∧ r + 2 ≤ s.imgH ∧ 1 ≤ c ∧ c + 2 ≤ s.imgW then edgeValue (s.window r c) else 0x00#8

/-- SOBEL (rule R140). -/
def execSobel (s : State) : Host.Outcome State Fault Refusal :=
  s.complete (imageChecks s s.imgSize) (s.writeImage s.sobelPixel)

end Sys2Proof.Machine
end

