-- ==== Sys2Proof/Machine/Dispatch.lean ====
section
/-! DEFINITION. Every command's completion step (rule R161), one arm per constructor of Instr. -/

namespace Sys2Proof.Machine

def exec (i : Instr) (s : State) : Host.Outcome State Fault Refusal :=
  match i with
  | .decode => Sys2Proof.Machine.execDecode s
  | .encode => Sys2Proof.Machine.execEncode s
  | .gray => Sys2Proof.Machine.execGray s
  | .hist => Sys2Proof.Machine.execHist s
  | .lut => Sys2Proof.Machine.execLut s
  | .remap => Sys2Proof.Machine.execRemap s
  | .equalize => Sys2Proof.Machine.execEqualize s
  | .sobel => Sys2Proof.Machine.execSobel s

end Sys2Proof.Machine
end

