-- ==== Sys2Proof/Machine/Engine.lean ====
section
/-! DEFINITION. The engine's one step, completion, which decodes the word in CMD and runs its command (rules R72, R161),
and how a command word comes to be the one that completes next. -/

namespace Sys2Proof.Machine

/-- BAD_COMMAND's detail for an illegal word (rules R72, R165). -/
def decodeFailure : DecodeError → EngineError
  | .reservedOpcode => .reservedOpcode
  | .reservedBits => .reservedBits

/-- Completion (rule R161): decode CMD and run the command; an illegal word is a failure completion (rules R73, R162). -/
def engineStep (s : State) : Host.Outcome State Fault Refusal :=
  match decode s.cmd with
  | .command i => exec i s
  | .illegal e => .next (s.fail (decodeFailure e))

/-- The command being run is HIST, LUT or EQUALIZE (rule R195). -/
def State.writesTables (s : State) : Bool :=
  match decode s.cmd with
  | .command .hist | .command .lut | .command .equalize => true
  | _ => false

/-- The word `w` issued with no host access before its completion, so that the very next step runs it (log entry 12). -/
def State.withCommand (s : State) (w : Word) : State := s.issueAfter w 0

end Sys2Proof.Machine
end

