-- ==== Sys2Proof/Machine/Csr.lean ====
section
/-! DEFINITION. The register window as the host sees it: the map of rule R24, what a read of each register returns and
what a write to it does (rules R25 to R37, R195, R196). -/

namespace Sys2Proof.Machine

/-- The registers of the window (rule R24). -/
inductive Csr where
  | ctrl
  | status
  | cmd
  | srcAddr
  | srcLen
  | dstAddr
  | dstLen
  | width
  | height
  | stride
  | outLen
  | histN
  | thresh
  | xyRes
  | hist (k : Fin 256)
  | lut (k : Fin 256)
  | reserved
deriving DecidableEq, Repr

/-- The register at an offset that is a multiple of 4 (rule R24). -/
def Csr.ofOffset (off : BitVec 12) : Csr :=
  match off.toNat with
  | 0x000 => .ctrl
  | 0x004 => .status
  | 0x008 => .cmd
  | 0x00C => .srcAddr
  | 0x010 => .srcLen
  | 0x014 => .dstAddr
  | 0x018 => .dstLen
  | 0x01C => .width
  | 0x020 => .height
  | 0x024 => .stride
  | 0x028 => .outLen
  | 0x02C => .histN
  | 0x030 => .thresh
  | 0x034 => .xyRes
  | n =>
    if 0x400 ≤ n ∧ n ≤ 0x7FC then .hist (Fin.ofNat 256 ((n - 0x400) / 4))
    else if 0x800 ≤ n ∧ n ≤ 0xBFC then .lut (Fin.ofNat 256 ((n - 0x800) / 4))
    else .reserved

/-- The offset of a register (rule R24); of the reserved offsets, the first. -/
def Csr.offset : Csr → BitVec 12
  | .ctrl => 0x000#12
  | .status => 0x004#12
  | .cmd => 0x008#12
  | .srcAddr => 0x00C#12
  | .srcLen => 0x010#12
  | .dstAddr => 0x014#12
  | .dstLen => 0x018#12
  | .width => 0x01C#12
  | .height => 0x020#12
  | .stride => 0x024#12
  | .outLen => 0x028#12
  | .histN => 0x02C#12
  | .thresh => 0x030#12
  | .xyRes => 0x034#12
  | .hist k => BitVec.ofNat 12 (0x400 + 4 * k.val)
  | .lut k => BitVec.ofNat 12 (0x800 + 4 * k.val)
  | .reserved => 0x038#12

/-- Where the host's bus finds a register: CSR_BASE + offset (rules R9, R79; log entry 15). -/
def State.busAddress (s : State) (r : Csr) : Nat := s.params.csrBase + r.offset.toNat

/-- The access is an aligned 32-bit access, the only form the window takes (rule R57; log entry 9). -/
def csrFormOk (w : Width) (off : BitVec 12) : Bool := decide (w = .b32) && decide (off.toNat % 4 = 0)

/-- What the register holds, as a read returns it (rules R24 to R37). -/
def csrValue (s : State) : Csr → Word
  | .ctrl => ctrlWord s
  | .status => statusWord s
  | .cmd => s.cmd
  | .srcAddr => s.srcAddr
  | .srcLen => s.srcLen
  | .dstAddr => s.dstAddr
  | .dstLen => s.dstLen
  | .width => s.width
  | .height => s.height
  | .stride => strideReg s
  | .outLen => s.outLen
  | .histN => s.histN
  | .thresh => BitVec.ofNat 32 threshold
  | .xyRes => BitVec.ofNat 32 xyRes
  | .hist k => s.hist.get k
  | .lut k => (s.lut.get k).setWidth 32
  | .reserved => 0#32

/-- The register is an entry of HIST or LUT. -/
def Csr.isTable : Csr → Bool
  | .hist _ | .lut _ => true
  | _ => false

/-- A read of this register returns an unspecified value: an entry of HIST or LUT while HIST, LUT or EQUALIZE is BUSY
(rule R195). -/
def readIsFree (s : State) (r : Csr) : Bool := r.isTable && s.busy && s.writesTables

/-- A host read of a register: the value, and the state after it. CSR reads have no side effects (rule R58); a free value
(rule R195; log entry 5) only advances the model's own counter. -/
def csrRead (s : State) (r : Csr) : Word × State :=
  if readIsFree s r then (Config.freeWord s.draws, { s with draws := s.draws + 1 }) else (csrValue s r, s)

/-- A host write of `v` to CTRL (rule R25): first IRQ_EN, then, if bit 1 is set, the soft reset (rule R191). -/
def writeCtrl (s : State) (v : Word) : State :=
  let s' := { s with irqEn := v.getLsbD 0 }
  if v.getLsbD 1 then s'.softReset else s'

/-- A host write to CMD or an operand register: it takes effect while IDLE and is dropped while BUSY (rule R33). -/
def whenIdle (s effect : State) : State :=
  match s.phase with
  | .idle => effect
  | .busy => s.dropWrite

/-- A host write of `v` to a register. Writes to read-only registers and reserved offsets are ignored (rules R30 to R37). -/
def csrWrite (s : State) (r : Csr) (v : Word) : State :=
  match r with
  | .ctrl => writeCtrl s v
  | .status => writeStatus s v
  | .cmd => whenIdle s (s.issue v)
  | .srcAddr => whenIdle s { s with srcAddr := v }
  | .srcLen => whenIdle s { s with srcLen := v }
  | .dstAddr => whenIdle s { s with dstAddr := v }
  | .dstLen => whenIdle s { s with dstLen := v }
  | .width => whenIdle s { s with width := v }
  | .height => whenIdle s { s with height := v }
  | .stride | .outLen | .histN | .thresh | .xyRes | .hist _ | .lut _ | .reserved => s

end Sys2Proof.Machine
end

