-- ==== Sys2Proof/Machine/HostPort.lean ====
section
/-! DEFINITION. One host access, performed on the state (rules R57, R61, R79, R193), and the host's turn in the schedule. -/

namespace Sys2Proof.Machine

/-- The number of bytes of an access (rule R53). -/
def Width.bytes : Width → Nat
  | .b8 => 1
  | .b16 => 2
  | .b32 => 4
  | .b64 => 8

/-- Records the value a host read returned (rule R79; log entry 11). -/
def State.returned (s : State) (v : DWord) : State := { s with hostReads := v :: s.hostReads }

/-- `WR` (rules R57, R79): any access that is not an aligned 32-bit access is refused. -/
def accessCsrWrite (s : State) (w : Width) (off : BitVec 12) (v : Word) : Host.Outcome State Fault Refusal :=
  if csrFormOk w off then .next (csrWrite s (Csr.ofOffset off) v) else .refused .csrAccessForm

/-- `RD` (rules R57, R79). -/
def accessCsrRead (s : State) (w : Width) (off : BitVec 12) : Host.Outcome State Fault Refusal :=
  if csrFormOk w off then
    let r := csrRead s (Csr.ofOffset off)
    .next (r.2.returned (r.1.setWidth 64))
  else .refused .csrAccessForm

/-- One `RD` of a `POLL` (rule R79): while the masked result is not the value, the poll stays the host's next access
(log entry 15). -/
def accessCsrPoll (s : State) (off : BitVec 12) (mask value : Word) : Host.Outcome State Fault Refusal :=
  if csrFormOk .b32 off then
    let r := csrRead s (Csr.ofOffset off)
    let t := r.2.returned (r.1.setWidth 64)
    .next (if r.1 &&& mask = value then t else { t with host := .csrPoll off mask value :: t.host })
  else .refused .csrAccessForm

/-- A host write to buffer memory of the low bytes of `v`, little-endian (rule R53). A byte at or above MEM_SIZE does not
exist (rule R50; log entry 8); while BUSY no byte of either window may be written (rule R193; log entry 7). -/
def accessMemWrite (s : State) (w : Width) (addr : Nat) (v : DWord) : Host.Outcome State Fault Refusal :=
  if s.memSize < addr + w.bytes then .fault .noSuchAddress
  else if s.busy && (s.touchesSrc addr w.bytes || s.touchesDst addr w.bytes) then .fault .hostRace
  else .next { s with mem := memWriteLE s.mem addr w.bytes v.toNat }

/-- A host read of buffer memory, little-endian (rule R53). While BUSY no byte of the destination window may be read; the
source window may (rule R193; log entry 7). -/
def accessMemRead (s : State) (w : Width) (addr : Nat) : Host.Outcome State Fault Refusal :=
  if s.memSize < addr + w.bytes then .fault .noSuchAddress
  else if s.busy && s.touchesDst addr w.bytes then .fault .hostRace
  else .next (s.returned (BitVec.ofNat 64 (memReadLE s.mem addr w.bytes)))

/-- One host operation, already taken off the host program (rule R79). -/
def access (s : State) (op : HostOp) : Host.Outcome State Fault Refusal :=
  match op with
  | .csrWrite w off v => accessCsrWrite s w off v
  | .csrRead w off => accessCsrRead s w off
  | .csrPoll off mask value => accessCsrPoll s off mask value
  | .memWrite w addr v => accessMemWrite s w addr v
  | .memRead w addr => accessMemRead s w addr
  | .platformReset => .next s.hardReset

/-- The host's turn: its next access in program order (rule R61). When the host program has ended nothing happens. -/
def hostStep (s : State) : Host.Outcome State Fault Refusal :=
  match s.host with
  | [] => .next s
  | op :: rest => access { s with host := rest } op

/-- The engine moves now: it is BUSY and either no host access is left, or those that come before this completion have
been performed (rules R161, R198; log entry 3). -/
def State.engineTurn (s : State) : Bool := s.busy && (decide (s.wait = 0) || s.host.isEmpty)

/-- One more of the host accesses that come before the completion has been performed. -/
def State.tick (s : State) : State := { s with wait := s.wait - 1 }

end Sys2Proof.Machine
end

