-- ==== Sys2Proof/Machine/Step.lean ====
section
/-! DEFINITION. One step of the whole machine: either the completion of the command that is BUSY or the host's next access
(rules R20, R161, R168), and how a command word is placed for the next step. -/

namespace Sys2Proof.Machine

/-- One step. While IDLE the host moves; while BUSY the engine moves when its turn has come, and the host until then. -/
def step (s : State) : Host.Outcome State Fault Refusal :=
  match s.phase with
  | .idle => hostStep s
  | .busy => if s.engineTurn then engineStep s else hostStep s.tick

/-- The state in which the very next step completes the command word made of the low `nbits` bits of `w`. -/
def State.withFetchWord (s : State) (nbits w : Nat) : State := s.withCommand (BitVec.ofNat 32 (w % 2 ^ nbits))

end Sys2Proof.Machine
end

