-- ==== Sys2Proof/Machine/HostProgram.lean ====
section
/-! DEFINITION. The host program notation and its pseudo-instructions as lists of host operations (rules R79, R80). -/

namespace Sys2Proof.Machine

/-- `WR <reg>, <value>` (rule R79). -/
def opWr (r : Csr) (v : Word) : HostOp := .csrWrite .b32 r.offset v

/-- `RD <reg>` (rule R79). -/
def opRd (r : Csr) : HostOp := .csrRead .b32 r.offset

/-- `POLL <reg>, <mask>, <value>` (rule R79). -/
def opPoll (r : Csr) (mask value : Word) : HostOp := .csrPoll r.offset mask value

/-- `MEMW <addr>: <bytes>`: one byte write per byte (rule R79). -/
def opMemw (addr : Nat) : List Byte → List HostOp
  | [] => []
  | b :: bs => .memWrite .b8 addr (b.setWidth 64) :: opMemw (addr + 1) bs

/-- `MEMR <addr>, <n>`: n byte reads (rule R79). -/
def opMemr (addr : Nat) : Nat → List HostOp
  | 0 => []
  | n + 1 => .memRead .b8 addr :: opMemr (addr + 1) n

/-- `ISSUE <MNEMONIC>` (rule R80). -/
def opIssue (i : Instr) : HostOp := opWr .cmd (encode i)

/-- `WAIT` (rule R80): until BUSY = 0. -/
def opWait : HostOp := opPoll .status 0x1#32 0x0#32

/-- `ACK` (rule R80): clear DONE. -/
def opAck : HostOp := opWr .status 0x2#32

/-- `RUN <MNEMONIC>` (rule R80). -/
def opRun (i : Instr) : List HostOp := [opIssue i, opWait]

/-- `SETWIN <sa>, <sl>, <da>, <dl>` (rule R80). -/
def opSetwin (sa sl da dl : Word) : List HostOp :=
  [opWr .srcAddr sa, opWr .srcLen sl, opWr .dstAddr da, opWr .dstLen dl]

/-- `SETDIM <w>, <h>` (rule R80). -/
def opSetdim (w h : Word) : List HostOp := [opWr .width w, opWr .height h]

end Sys2Proof.Machine
end

