-- ==== Sys2Proof/Safety.lean ====
section
/-! DEFINITION. The terms in which claims are stated: the conditions on a state and its operands under which a command
succeeds, what a command that succeeds leaves, the machine's invariants, and what can be observed of a run. -/

namespace Sys2Proof.Machine

/-! ### Conditions on the operands -/

/-- `a` is an address of the source window (rule R28). -/
def State.InSrc (s : State) (a : Nat) : Prop := s.srcAddr.toNat ≤ a ∧ a < s.srcAddr.toNat + s.srcLen.toNat

/-- `a` is an address of the destination window (rule R28). -/
def State.InDst (s : State) (a : Nat) : Prop := s.dstAddr.toNat ≤ a ∧ a < s.dstAddr.toNat + s.dstLen.toNat

/-- WIDTH and HEIGHT, read as signed, are in 1 .. MAX_DIM (rule R29). -/
def State.DimsOk (s : State) : Prop :=
  (1 ≤ s32 s.width ∧ s32 s.width ≤ s.maxDim) ∧ 1 ≤ s32 s.height ∧ s32 s.height ≤ s.maxDim

/-- Both windows lie in buffer memory and share no byte (rules R60, R166). -/
def State.WindowsOk (s : State) : Prop :=
  s.srcAddr.toNat + s.srcLen.toNat ≤ s.memSize ∧ s.dstAddr.toNat + s.dstLen.toNat ≤ s.memSize
    ∧ ∀ a, s.InSrc a → ¬s.InDst a

/-- The operands of ENCODE, GRAY, REMAP, EQUALIZE and SOBEL pass every check, for `out` bytes of output (rules R166,
R167). -/
def State.ImageReady (s : State) (out : Nat) : Prop :=
  s.DimsOk ∧ s.WindowsOk ∧ s.imgSize ≤ s.srcLen.toNat ∧ out ≤ s.dstLen.toNat

/-- The operands of HIST pass every check (rules R120, R167). -/
def State.HistReady (s : State) : Prop :=
  s.DimsOk ∧ s.srcAddr.toNat + s.srcLen.toNat ≤ s.memSize ∧ s.imgSize ≤ s.srcLen.toNat

/-- The header fields DECODE checks hold the values it requires (rules R75, R76, R78). -/
def State.HeaderOk (s : State) : Prop :=
  s.mem.read s.srcAddr.toNat = 0x42#8 ∧ s.mem.read (s.srcAddr.toNat + 1) = 0x4D#8
    ∧ memReadLE s.mem (s.srcAddr.toNat + 28) 2 = 24 ∧ memReadLE s.mem (s.srcAddr.toNat + 30) 4 = 0
    ∧ memReadLE s.mem (s.srcAddr.toNat + 26) 2 = 1 ∧ memReadLE s.mem (s.srcAddr.toNat + 46) 4 = 0

/-- The stream's width and height, read as signed, are in 1 .. MAX_DIM (rule R76). -/
def State.StreamDimsOk (s : State) : Prop :=
  (1 ≤ s32 s.streamWidth ∧ s32 s.streamWidth ≤ s.maxDim) ∧ 1 ≤ s32 s.streamHeight ∧ s32 s.streamHeight ≤ s.maxDim

/-- The stream and the windows pass every check of DECODE (rule R90). -/
def State.StreamReady (s : State) : Prop :=
  s.WindowsOk ∧ 54 ≤ s.srcLen.toNat ∧ s.HeaderOk ∧ s.StreamDimsOk
    ∧ s.pixelOffset + s.streamSize ≤ s.srcLen.toNat ∧ s.streamSize ≤ s.dstLen.toNat

/-! ### What a command leaves -/

/-- `t` holds in `s`'s destination window a new image of `s`'s dimensions whose pixel (r, c) has the value `value r c` in
all three channels, its padding bytes are 0, every other byte of memory is as in `s`, and OUT_LEN is the image's size
(rules R31, R54, R56, R65). -/
def WritesImage (s t : State) (value : Nat → Nat → Nat) : Prop :=
  t.outLen.toNat = s.imgSize
    ∧ (∀ r c ch, r < s.imgH → c < s.imgW → ch < 3 →
        (t.mem.read (s.dstAddr.toNat + (pix s.imgW r c + ch))).toNat = value r c)
    ∧ (∀ r q, r < s.imgH → 3 * s.imgW ≤ q → q < stride s.imgW →
        t.mem.read (s.dstAddr.toNat + (r * stride s.imgW + q)) = 0#8)
    ∧ ∀ a, (a < s.dstAddr.toNat ∨ s.dstAddr.toNat + s.imgSize ≤ a) → t.mem.read a = s.mem.read a

/-- The state a failed command leaves (rule R162): OUT_LEN 0, ERR with the code and the detail, DONE, IDLE, and nothing
else changed. -/
def State.failedWith (s : State) (code detail : BitVec 4) : State :=
  { s with outLen := 0#32, err := true, errCode := code, errDetail := detail, phase := .idle, done := true, wait := 0 }

/-- The number of pixels of the source image whose channel-0 byte is `k` (rule R120). -/
def State.pixelsOfIntensity (s : State) (k : Nat) : Nat :=
  ((List.range s.imgH).map fun r => ((List.range s.imgW).map fun c =>
    if (s.mem.read (s.srcAddr.toNat + pix s.imgW r c)).toNat = k then 1 else 0).sum).sum

/-- The intensity at row `i` and column `j` of the 3x3 window centred on pixel (r, c) (rule R140). -/
def State.around (s : State) (r c i j : Nat) : Int :=
  ((s.mem.read (s.srcAddr.toNat + pix s.imgW (r - 1 + i) (c - 1 + j))).toNat : Int)

/-- Gx of the window centred on pixel (r, c): the dot product with Mx (rules R8, R140). -/
def State.gradX (s : State) (r c : Nat) : Int :=
  -s.around r c 0 0 - 2 * s.around r c 0 1 - s.around r c 0 2 + s.around r c 2 0 + 2 * s.around r c 2 1
    + s.around r c 2 2

/-- Gy of the window centred on pixel (r, c): the dot product with My (rules R8, R140). -/
def State.gradY (s : State) (r c : Nat) : Int :=
  -s.around r c 0 0 + s.around r c 0 2 - 2 * s.around r c 1 0 + 2 * s.around r c 1 2 - s.around r c 2 0
    + s.around r c 2 2

/-- Pixel (r, c) has a full 3x3 neighbourhood (glossary "Interior pixel"). -/
def State.Interior (s : State) (r c : Nat) : Prop := 1 ≤ r ∧ r + 2 ≤ s.imgH ∧ 1 ≤ c ∧ c + 2 ≤ s.imgW

/-! ### Whose turn it is -/

/-- The next step is a reset: it is the host's turn, and its next access is the platform's reset input (rule R190) or a
write to CTRL with bit 1 set (rules R25, R191). -/
def State.ResetNext (s : State) : Prop :=
  s.engineTurn = false ∧ ∃ op rest, s.host = op :: rest
    ∧ (op = .platformReset ∨ ∃ v : Word, v.getLsbD 1 = true ∧ op = .csrWrite .b32 0x000#12 v)

/-! ### Invariants -/

/-- Buffer memory is in canonical form and lists only addresses below MEM_SIZE (rule R50). -/
def MemoryCanonical (s : State) : Prop := s.mem.wf = true ∧ s.mem.within s.memSize = true

/-- Rule R26: ERR = 1 exactly when ERRCODE is not 0; BUSY = 1 implies DONE = 0, ERR = 0 and ERRCODE = 0. -/
def StatusConsistent (s : State) : Prop :=
  (s.err = true ↔ s.errCode ≠ 0#4) ∧ (s.phase = .busy → s.done = false ∧ s.err = false ∧ s.errCode = 0#4)

/-- The pairs (ERRCODE, ERRDETAIL) of rule R165's table. -/
def errorPairs : List (BitVec 4 × BitVec 4) :=
  [(0, 0), (1, 1), (1, 2), (1, 3), (1, 4), (1, 5), (2, 1), (2, 2), (2, 3), (2, 4), (3, 1), (3, 2), (4, 1), (4, 2), (5, 0),
    (6, 0)]

/-- Rule R165: no reserved code and no detail not listed for a code is ever recorded. -/
def ErrorPairListed (s : State) : Prop := (s.errCode, s.errDetail) ∈ errorPairs

/-- Rule R32: HIST_N is the sum of HIST and at most 2^30. -/
def HistogramCounted (s : State) : Prop :=
  s.histN.toNat = (s.hist.toList.map BitVec.toNat).sum ∧ s.histN.toNat ≤ 2 ^ 30

/-- Rule R37: LUT is non-decreasing. -/
def LutMonotone (s : State) : Prop := ∀ j k : Fin 256, j ≤ k → (s.lut.get j).toNat ≤ (s.lut.get k).toNat

/-- All the invariants of the machine. -/
def Inv (s : State) : Prop :=
  MemoryCanonical s ∧ StatusConsistent s ∧ ErrorPairListed s ∧ HistogramCounted s ∧ LutMonotone s

/-! ### Runs (rule R199) -/

/-- The run has ended: the host has performed its last access and the engine is IDLE. -/
def State.ended (s : State) : Bool := s.host.isEmpty && decide (s.phase = .idle)

/-- The observable result of a run: every CSR, HIST, LUT, buffer memory and the irq level. -/
structure Observable where
  csrs : List Word
  hist : Vector Word 256
  lut : Vector Byte 256
  mem : Memory
  irq : Bool
deriving DecidableEq, Repr

/-- What can be observed of a state at the end of a run. -/
def State.observe (s : State) : Observable where
  csrs := [Csr.ctrl, .status, .cmd, .srcAddr, .srcLen, .dstAddr, .dstLen, .width, .height, .stride, .outLen, .histN,
    .thresh, .xyRes].map (csrValue s)
  hist := s.hist
  lut := s.lut
  mem := s.mem
  irq := s.irq

end Sys2Proof.Machine
end

