-- ==== Sys2Proof/Certificates/Slice0/Obligations.lean ====
section
/-! DEFINITION. The statements for the provers. Each docstring names the rule of spec/ it formalises. -/

open Sys2Proof Sys2Proof.Machine

/-! ### Encoding -/

/-- 95_test_vectors.md section 2.2 and rule R71: the words of the opcode table and the listed illegal words decode as the
spec says. -/
def Obligations.ListedCommandWordsDecode : Prop :=
  decode 0x00000001#32 = .command .decode ∧ decode 0x00000002#32 = .command .encode
    ∧ decode 0x00000003#32 = .command .gray ∧ decode 0x00000004#32 = .command .hist
    ∧ decode 0x00000005#32 = .command .lut ∧ decode 0x00000006#32 = .command .remap
    ∧ decode 0x00000007#32 = .command .equalize ∧ decode 0x00000008#32 = .command .sobel
    ∧ decode 0x00000000#32 = .illegal .reservedOpcode ∧ decode 0x00000009#32 = .illegal .reservedOpcode
    ∧ decode 0x000000FF#32 = .illegal .reservedOpcode ∧ decode 0x00000101#32 = .illegal .reservedBits
    ∧ decode 0x00000109#32 = .illegal .reservedOpcode ∧ decode 0x80000008#32 = .illegal .reservedBits

/-- Rules R70 to R73: for every 32-bit word, the decoder gives a command exactly for that command's encoded word, reports
a reserved opcode exactly when OPC is none of 1 .. 8, and reports reserved bits exactly when OPC is valid and RSV is not
0. So decoding an encoded well-formed command gives it back, and no bit of a word is dropped. -/
def Obligations.DecodeInvertsEncodeOnEveryWord : Prop :=
  ∀ w : Word,
    (∀ i : Instr, i.wellFormed = true → (decode w = .command i ↔ w = encode i))
    ∧ (decode w = .illegal .reservedOpcode ↔ ¬(1 ≤ w.toNat % 256 ∧ w.toNat % 256 ≤ 8))
    ∧ (decode w = .illegal .reservedBits ↔ (1 ≤ w.toNat % 256 ∧ w.toNat % 256 ≤ 8) ∧ w.toNat / 256 ≠ 0)

/-- Rule R24: each register is found at its offset, offsets are multiples of 4, and the aligned offsets at which no
register stands are 0x038 .. 0x3FC and 0xC00 .. 0xFFC. -/
def Obligations.RegisterMapHasEveryRegisterOnce : Prop :=
  (∀ r : Csr, r ≠ .reserved → Csr.ofOffset r.offset = r ∧ r.offset.toNat % 4 = 0)
    ∧ ∀ off : BitVec 12, off.toNat % 4 = 0 →
      (Csr.ofOffset off = .reserved ↔ (0x038 ≤ off.toNat ∧ off.toNat ≤ 0x3FC) ∨ 0xC00 ≤ off.toNat)

/-! ### The step -/

/-- Rule R161: when the engine's turn has come and CMD decodes to a command, the step is that command's execution. -/
def Obligations.StepRunsTheDecodedCommand : Prop :=
  ∀ (s : State) (i : Instr), i.wellFormed = true → s.phase = .busy → (s.wait = 0 ∨ s.host = []) →
    decode s.cmd = .command i → step s = exec i s

/-- The very next step after a command word is placed runs that command, in a state that differs only in CMD and in what
an issue writes (the model's choice, log entry 12; rule R160). -/
def Obligations.PlacedWordRunsNext : Prop :=
  ∀ (s : State) (i : Instr), i.wellFormed = true →
    step (s.withFetchWord 32 (encode i).toNat)
      = exec i { s with
          cmd := encode i, done := false, err := false, errCode := 0#4, errDetail := 0#4, phase := .busy, wait := 0 }

/-- Rule R73: completing a word that no command encodes sets ERR with BAD_COMMAND (detail 1 for a reserved opcode, else 2)
and OUT_LEN 0, and changes nothing else. -/
def Obligations.IllegalWordCompletesWithBadCommand : Prop :=
  ∀ s : State, s.phase = .busy → (s.wait = 0 ∨ s.host = []) → (∀ i : Instr, s.cmd ≠ encode i) →
    step s = .next (s.failedWith 4#4
      (if 1 ≤ s.cmd.toNat % 256 ∧ s.cmd.toNat % 256 ≤ 8 then 2#4 else 1#4))

/-- Rules R20, R61: while IDLE, and while BUSY until the completion's turn, the step is the host's next access in program
order; an IDLE engine with no host access left stays as it is (the last clause is the model's choice, log entry 2). -/
def Obligations.HostAccessesInProgramOrder : Prop :=
  ∀ (s : State) (op : HostOp) (rest : List HostOp),
    (s.phase = .idle → s.host = op :: rest → step s = access { s with host := rest } op)
    ∧ (∀ n, s.phase = .busy → s.wait = n + 1 → s.host = op :: rest →
        step s = access { s with host := rest, wait := n } op)
    ∧ (s.phase = .idle → s.host = [] → step s = .next s)

/-! ### Issue, writes and resets by the host -/

/-- Rule R160: a write of v to CMD while IDLE stores v, clears DONE, ERR, ERRCODE and ERRDETAIL and makes the engine BUSY,
and changes nothing else the spec names (the number of accesses before the completion is a free value, log entry 3); while
BUSY the write is dropped (rule R33). -/
def Obligations.CommandWriteIssues : Prop :=
  ∀ (s : State) (v : Word),
    (s.phase = .idle → ∃ delay, access s (.csrWrite .b32 0x008#12 v) = .next { s with
      cmd := v, done := false, err := false, errCode := 0#4, errDetail := 0#4, phase := .busy, wait := delay,
      draws := s.draws + 1 })
    ∧ (s.phase = .busy → access s (.csrWrite .b32 0x008#12 v) = .next { s with drop := true })

/-- Rules R27 to R29, R196: while IDLE a write to an operand register stores the value at once and changes nothing else. -/
def Obligations.OperandWriteWhileIdleStores : Prop :=
  ∀ (s : State) (v : Word), s.phase = .idle →
    access s (.csrWrite .b32 0x00C#12 v) = .next { s with srcAddr := v }
    ∧ access s (.csrWrite .b32 0x010#12 v) = .next { s with srcLen := v }
    ∧ access s (.csrWrite .b32 0x014#12 v) = .next { s with dstAddr := v }
    ∧ access s (.csrWrite .b32 0x018#12 v) = .next { s with dstLen := v }
    ∧ access s (.csrWrite .b32 0x01C#12 v) = .next { s with width := v }
    ∧ access s (.csrWrite .b32 0x020#12 v) = .next { s with height := v }

/-- Rule R33: while BUSY a write to CMD or an operand register changes no register and sets DROP; a write to CTRL or STATUS
never sets DROP; a write to a read-only register or a reserved offset is ignored in either phase. -/
def Obligations.BusyOperandWritesAreDropped : Prop :=
  ∀ (s : State) (off : BitVec 12) (v : Word), off.toNat % 4 = 0 →
    (s.phase = .busy → 0x008 ≤ off.toNat → off.toNat ≤ 0x020 →
      access s (.csrWrite .b32 off v) = .next { s with drop := true })
    ∧ (off.toNat ≤ 0x004 → ∃ t, access s (.csrWrite .b32 off v) = .next t ∧ (t.drop = true → s.drop = true))
    ∧ (0x024 ≤ off.toNat → access s (.csrWrite .b32 off v) = .next s)

/-- Rule R26: a write of v to STATUS clears DONE if v[1] = 1 and DROP if v[3] = 1, ignores every other bit of v, and is
accepted in either phase. -/
def Obligations.StatusWriteClearsDoneAndDrop : Prop :=
  ∀ (s : State) (v : Word), access s (.csrWrite .b32 0x004#12 v) = .next { s with
    done := if v.getLsbD 1 then false else s.done, drop := if v.getLsbD 3 then false else s.drop }

/-- Rule R25: a write of v to CTRL without bit 1 sets IRQ_EN to v[0] and does nothing else, in either phase. -/
def Obligations.ControlWriteSetsInterruptEnable : Prop :=
  ∀ (s : State) (v : Word), v.getLsbD 1 = false →
    access s (.csrWrite .b32 0x000#12 v) = .next { s with irqEn := v.getLsbD 0 }

/-- Rule R191: a write to CTRL with bit 1 set puts every register, HIST and LUT at its reset value and the engine IDLE; if
it was BUSY, every byte of the destination window that is in memory holds a free value and every other byte is unchanged;
if it was IDLE, memory is unchanged. The registers are reset when the write is performed. -/
def Obligations.SoftResetAbandonsAndResets : Prop :=
  ∀ (s : State) (v : Word), v.getLsbD 1 = true →
    ∃ m n, access s (.csrWrite .b32 0x000#12 v) = .next { s with
        phase := .idle, irqEn := false, done := false, err := false, drop := false, errCode := 0#4, errDetail := 0#4,
        cmd := 0#32, srcAddr := 0#32, srcLen := 0#32, dstAddr := 0#32, dstLen := 0#32, width := 0#32, height := 0#32,
        outLen := 0#32, histN := 0#32, hist := Vector.replicate 256 0#32, lut := Vector.replicate 256 0#8, wait := 0,
        mem := m, draws := n }
      ∧ (s.phase = .idle → m = s.mem ∧ n = s.draws)
      ∧ (s.phase = .busy → ∀ a, a < s.memSize → s.InDst a → m.read a = Config.freeByte (s.draws + (a - s.dstAddr.toNat)))
      ∧ (s.phase = .busy → ∀ a, ¬(a < s.memSize ∧ s.InDst a) → m.read a = s.mem.read a)

/-- Rule R190: the platform's reset input puts every register, HIST and LUT at its reset value and the engine IDLE, and
does not reset buffer memory: while IDLE every byte is unchanged, and while BUSY every byte outside the destination window
is. (While BUSY every byte of that window that is in memory holds a free value: the model's choice, log entry 10.) -/
def Obligations.PlatformResetResetsEngine : Prop :=
  ∀ s : State, ∃ m n, access s .platformReset = .next { s with
      phase := .idle, irqEn := false, done := false, err := false, drop := false, errCode := 0#4, errDetail := 0#4,
      cmd := 0#32, srcAddr := 0#32, srcLen := 0#32, dstAddr := 0#32, dstLen := 0#32, width := 0#32, height := 0#32,
      outLen := 0#32, histN := 0#32, hist := Vector.replicate 256 0#32, lut := Vector.replicate 256 0#8, wait := 0,
      mem := m, draws := n }
    ∧ (s.phase = .idle → m = s.mem ∧ n = s.draws)
    ∧ (s.phase = .busy → ∀ a, a < s.memSize → s.InDst a → m.read a = Config.freeByte (s.draws + (a - s.dstAddr.toNat)))
    ∧ (s.phase = .busy → ∀ a, ¬(a < s.memSize ∧ s.InDst a) → m.read a = s.mem.read a)

/-- Rule R40: the value every piece of engine state holds after hard reset, as the registers read. -/
def Obligations.ResetStateHoldsTheTableOfResetValues : Prop :=
  State.reset.phase = .idle ∧ ctrlWord State.reset = 0#32 ∧ statusWord State.reset = 0#32
    ∧ State.reset.cmd = 0#32 ∧ State.reset.srcAddr = 0#32 ∧ State.reset.srcLen = 0#32 ∧ State.reset.dstAddr = 0#32
    ∧ State.reset.dstLen = 0#32 ∧ State.reset.width = 0#32 ∧ State.reset.height = 0#32
    ∧ csrValue State.reset .stride = 0#32 ∧ State.reset.outLen = 0#32 ∧ State.reset.histN = 0#32
    ∧ csrValue State.reset .thresh = 100#32 ∧ csrValue State.reset .xyRes = 3780#32
    ∧ (∀ k : Fin 256, State.reset.hist.get k = 0#32) ∧ (∀ k : Fin 256, State.reset.lut.get k = 0#8)
    ∧ State.reset.irq = false

/-! ### Register reads -/

/-- Rules R24 to R32, R58: a read of a register below the tables returns its content (STATUS composed of its fields, the
stored registers as they are) and changes nothing; the model records the value. -/
def Obligations.RegisterReadReturnsContent : Prop :=
  ∀ s : State,
    access s (.csrRead .b32 0x000#12) = .next { s with hostReads := BitVec.ofNat 64 s.irqEn.toNat :: s.hostReads }
    ∧ (∃ x : Word, access s (.csrRead .b32 0x004#12) = .next { s with hostReads := x.setWidth 64 :: s.hostReads }
      ∧ x.toNat = (if s.phase = .busy then 1 else 0) + 2 * s.done.toNat + 4 * s.err.toNat + 8 * s.drop.toNat
          + 2 ^ 8 * s.errCode.toNat + 2 ^ 12 * s.errDetail.toNat)
    ∧ access s (.csrRead .b32 0x008#12) = .next { s with hostReads := s.cmd.setWidth 64 :: s.hostReads }
    ∧ access s (.csrRead .b32 0x00C#12) = .next { s with hostReads := s.srcAddr.setWidth 64 :: s.hostReads }
    ∧ access s (.csrRead .b32 0x010#12) = .next { s with hostReads := s.srcLen.setWidth 64 :: s.hostReads }
    ∧ access s (.csrRead .b32 0x014#12) = .next { s with hostReads := s.dstAddr.setWidth 64 :: s.hostReads }
    ∧ access s (.csrRead .b32 0x018#12) = .next { s with hostReads := s.dstLen.setWidth 64 :: s.hostReads }
    ∧ access s (.csrRead .b32 0x01C#12) = .next { s with hostReads := s.width.setWidth 64 :: s.hostReads }
    ∧ access s (.csrRead .b32 0x020#12) = .next { s with hostReads := s.height.setWidth 64 :: s.hostReads }
    ∧ access s (.csrRead .b32 0x028#12) = .next { s with hostReads := s.outLen.setWidth 64 :: s.hostReads }
    ∧ access s (.csrRead .b32 0x02C#12) = .next { s with hostReads := s.histN.setWidth 64 :: s.hostReads }

/-- Rule R30: STRIDE reads ((3W + 3) div 4) * 4 when 1 <= W <= MAX_DIM and 0 otherwise, with W the signed WIDTH; when it is
not 0 it is a multiple of 4 between 3W and 3W + 3; a write to it is ignored and does not set DROP. -/
def Obligations.StrideReadsTheDerivedValue : Prop :=
  ∀ (s : State) (v : Word),
    (∃ x : Word, access s (.csrRead .b32 0x024#12) = .next { s with hostReads := x.setWidth 64 :: s.hostReads }
      ∧ (1 ≤ s32 s.width ∧ s32 s.width ≤ s.maxDim → (x.toNat : Int) = (3 * s32 s.width + 3) / 4 * 4)
      ∧ (¬(1 ≤ s32 s.width ∧ s32 s.width ≤ s.maxDim) → x = 0#32)
      ∧ (x ≠ 0#32 → x.toNat % 4 = 0 ∧ 3 * s32 s.width ≤ x.toNat ∧ (x.toNat : Int) ≤ 3 * s32 s.width + 3))
    ∧ access s (.csrWrite .b32 0x024#12 v) = .next s ∧ csrValue State.reset .stride = 0#32

/-- Rule R34: THRESH reads 100 and XYRES reads 3780 in every state, and writes to them are ignored. -/
def Obligations.ConstantRegistersAreHardwired : Prop :=
  ∀ (s : State) (v : Word),
    access s (.csrRead .b32 0x030#12) = .next { s with hostReads := 100#64 :: s.hostReads }
    ∧ access s (.csrRead .b32 0x034#12) = .next { s with hostReads := 3780#64 :: s.hostReads }
    ∧ access s (.csrWrite .b32 0x030#12 v) = .next s ∧ access s (.csrWrite .b32 0x034#12 v) = .next s

/-- Rule R35: the reserved offsets read as 0 and writes to them have no effect, and the reserved bits of CTRL and STATUS
read as 0 and are ignored when written: a write of any word does what a write of that word with its reserved bits masked
off does. -/
def Obligations.ReservedOffsetsAndBitsReadZero : Prop :=
  ∀ (s : State) (off : BitVec 12) (v : Word), off.toNat % 4 = 0 →
    ((0x038 ≤ off.toNat ∧ off.toNat ≤ 0x3FC) ∨ 0xC00 ≤ off.toNat →
      access s (.csrRead .b32 off) = .next { s with hostReads := 0#64 :: s.hostReads }
      ∧ access s (.csrWrite .b32 off v) = .next s)
    ∧ (ctrlWord s).toNat / 2 = 0
    ∧ (statusWord s).toNat / 2 ^ 4 % 2 ^ 4 = 0 ∧ (statusWord s).toNat / 2 ^ 16 = 0
    ∧ access s (.csrWrite .b32 0x000#12 v) = access s (.csrWrite .b32 0x000#12 (v &&& 0x00000003#32))
    ∧ access s (.csrWrite .b32 0x004#12 v) = access s (.csrWrite .b32 0x004#12 (v &&& 0x0000FF0F#32))

/-- Rules R36, R37, R195: a read of HIST[k] or LUT[k] while a HIST, LUT or EQUALIZE command is BUSY returns a free value;
at any other time it returns the current entry (LUT's zero-extended) and changes nothing. -/
def Obligations.TableReadsAreFreeOnlyWhileTablesAreWritten : Prop :=
  ∀ (s : State) (k : Fin 256),
    (s.phase = .busy → (s.cmd = 4#32 ∨ s.cmd = 5#32 ∨ s.cmd = 7#32) →
      access s (.csrRead .b32 (BitVec.ofNat 12 (0x400 + 4 * k.val)))
        = .next { s with hostReads := (Config.freeWord s.draws).setWidth 64 :: s.hostReads, draws := s.draws + 1 }
      ∧ access s (.csrRead .b32 (BitVec.ofNat 12 (0x800 + 4 * k.val)))
        = .next { s with hostReads := (Config.freeWord s.draws).setWidth 64 :: s.hostReads, draws := s.draws + 1 })
    ∧ (¬(s.phase = .busy ∧ (s.cmd = 4#32 ∨ s.cmd = 5#32 ∨ s.cmd = 7#32)) →
      access s (.csrRead .b32 (BitVec.ofNat 12 (0x400 + 4 * k.val)))
        = .next { s with hostReads := (s.hist.get k).setWidth 64 :: s.hostReads }
      ∧ access s (.csrRead .b32 (BitVec.ofNat 12 (0x800 + 4 * k.val)))
        = .next { s with hostReads := (s.lut.get k).setWidth 64 :: s.hostReads })

/-- Rule R57: a write or read of the register window that is not 32 bits wide at an offset that is a multiple of 4 is
refused, and every other one is performed. A POLL, which is a repeated 32-bit read (rule R79; log entry 9), is refused at
an offset that is not a multiple of 4 and performed at every other. -/
def Obligations.OnlyAlignedWordAccessesToTheWindow : Prop :=
  ∀ (s : State) (w : Width) (off : BitVec 12) (v mask : Word),
    (¬(w = .b32 ∧ off.toNat % 4 = 0) →
      access s (.csrWrite w off v) = .refused .csrAccessForm ∧ access s (.csrRead w off) = .refused .csrAccessForm)
    ∧ (w = .b32 ∧ off.toNat % 4 = 0 →
      (∃ t, access s (.csrWrite w off v) = .next t) ∧ ∃ t, access s (.csrRead w off) = .next t)
    ∧ (off.toNat % 4 ≠ 0 → access s (.csrPoll off mask v) = .refused .csrAccessForm)
    ∧ (off.toNat % 4 = 0 → ∃ t, access s (.csrPoll off mask v) = .next t)

/-- Rule R38: irq is DONE and IRQ_EN; it is 0 after reset, and a write of 1 to STATUS.DONE or of 0 to IRQ_EN lowers it. -/
def Obligations.InterruptLevelFollowsDoneAndEnable : Prop :=
  (∀ s : State, s.irq = true ↔ s.done = true ∧ s.irqEn = true) ∧ State.reset.irq = false
    ∧ ∀ (s : State) (v : Word),
      (v.getLsbD 1 = true → ∃ t, access s (.csrWrite .b32 0x004#12 v) = .next t ∧ t.irq = false)
      ∧ (v.getLsbD 0 = false → ∃ t, access s (.csrWrite .b32 0x000#12 v) = .next t ∧ t.irq = false)

/-! ### Host accesses to buffer memory -/

/-- Rule R193: while BUSY, a host write that touches a byte of either window, or a host read that touches a byte of the
destination window, is the fault HOST_RACE. Every other access is performed: a write outside both windows stores the low
bytes of the value, least significant first (rule R53), and leaves every other byte and every register; a read outside the
destination window returns the current bytes and changes nothing. (That the registers give the windows of every command
word, also of one that uses one window or none, is the model's deduction, log entry 7.) -/
def Obligations.WindowRaceIsAFault : Prop :=
  ∀ (s : State) (w : Width) (addr : Nat) (v : DWord), s.phase = .busy → addr + w.bytes ≤ s.memSize →
    ((∃ a, addr ≤ a ∧ a < addr + w.bytes ∧ (s.InSrc a ∨ s.InDst a)) →
      access s (.memWrite w addr v) = .fault .hostRace)
    ∧ ((∃ a, addr ≤ a ∧ a < addr + w.bytes ∧ s.InDst a) → access s (.memRead w addr) = .fault .hostRace)
    ∧ ((∀ a, addr ≤ a → a < addr + w.bytes → ¬s.InSrc a ∧ ¬s.InDst a) → ∃ m,
      access s (.memWrite w addr v) = .next { s with mem := m }
      ∧ (∀ i, i < w.bytes → (m.read (addr + i)).toNat = v.toNat / 2 ^ (8 * i) % 256)
      ∧ ∀ a, (a < addr ∨ addr + w.bytes ≤ a) → m.read a = s.mem.read a)
    ∧ ((∀ a, addr ≤ a → a < addr + w.bytes → ¬s.InDst a) → ∃ x,
      access s (.memRead w addr) = .next { s with hostReads := x :: s.hostReads }
      ∧ x.toNat = ((List.range w.bytes).map fun i => (s.mem.read (addr + i)).toNat * 256 ^ i).sum)

/-- Rules R12, R53: while IDLE a host write of n bytes inside memory stores the low n bytes of the value, least significant
first, and leaves every other byte; a host read of n bytes returns their little-endian value and changes nothing. -/
def Obligations.HostMemoryAccessesAreLittleEndian : Prop :=
  ∀ (s : State) (w : Width) (addr : Nat) (v : DWord), s.phase = .idle → addr + w.bytes ≤ s.memSize →
    (∃ m, access s (.memWrite w addr v) = .next { s with mem := m }
      ∧ (∀ i, i < w.bytes → (m.read (addr + i)).toNat = v.toNat / 2 ^ (8 * i) % 256)
      ∧ ∀ a, (a < addr ∨ addr + w.bytes ≤ a) → m.read a = s.mem.read a)
    ∧ ∃ x, access s (.memRead w addr) = .next { s with hostReads := x :: s.hostReads }
      ∧ x.toNat = ((List.range w.bytes).map fun i => (s.mem.read (addr + i)).toNat * 2 ^ (8 * i)).sum

/-- Rule R50 (the stop is the model's choice, log entry 8): a host access to a byte at or above MEM_SIZE is a fault, in
either phase. -/
def Obligations.NoByteAboveMemSize : Prop :=
  ∀ (s : State) (w : Width) (addr : Nat) (v : DWord), s.memSize < addr + w.bytes →
    access s (.memWrite w addr v) = .fault .noSuchAddress ∧ access s (.memRead w addr) = .fault .noSuchAddress

/-! ### Completion and errors -/

/-- Rules R161 to R163: every command completes; the engine is then IDLE with DONE set; either the error fields are as
they were (success) or the command failed with one of the errors of rule R165 and left memory, HIST, HIST_N, LUT, WIDTH and
HEIGHT as they were, OUT_LEN 0 and nothing else changed. -/
def Obligations.CommandsCompleteWhollyOrNotAtAll : Prop :=
  ∀ (i : Instr) (s : State), ∃ t, exec i s = .next t ∧ t.phase = .idle ∧ t.done = true
    ∧ ((t.err = s.err ∧ t.errCode = s.errCode ∧ t.errDetail = s.errDetail)
      ∨ ∃ code detail, code ≠ 0#4 ∧ (code, detail) ∈ errorPairs ∧ t = s.failedWith code detail)

/-- Rules R166, R167: ENCODE, GRAY, REMAP, EQUALIZE and SOBEL report the first check that fails, in the order width,
height, source range, destination range, overlap, source short, destination short, and do nothing else. -/
def Obligations.ImageCommandsReportTheFirstFailingCheck : Prop :=
  ∀ (s : State) (i : Instr) (out : Nat),
    (i, out) ∈ [(Instr.encode, 54 + s.imgSize), (.gray, s.imgSize), (.remap, s.imgSize), (.equalize, s.imgSize),
      (.sobel, s.imgSize)] →
    (¬(1 ≤ s32 s.width ∧ s32 s.width ≤ s.maxDim) → exec i s = .next (s.failedWith 3#4 1#4))
    ∧ ((1 ≤ s32 s.width ∧ s32 s.width ≤ s.maxDim) → ¬(1 ≤ s32 s.height ∧ s32 s.height ≤ s.maxDim) →
      exec i s = .next (s.failedWith 3#4 2#4))
    ∧ (s.DimsOk → s.memSize < s.srcAddr.toNat + s.srcLen.toNat → exec i s = .next (s.failedWith 2#4 1#4))
    ∧ (s.DimsOk → s.srcAddr.toNat + s.srcLen.toNat ≤ s.memSize → s.memSize < s.dstAddr.toNat + s.dstLen.toNat →
      exec i s = .next (s.failedWith 2#4 2#4))
    ∧ (s.DimsOk → s.srcAddr.toNat + s.srcLen.toNat ≤ s.memSize → s.dstAddr.toNat + s.dstLen.toNat ≤ s.memSize →
      (∃ a, s.InSrc a ∧ s.InDst a) → exec i s = .next (s.failedWith 5#4 0#4))
    ∧ (s.DimsOk → s.WindowsOk → s.srcLen.toNat < s.imgSize → exec i s = .next (s.failedWith 2#4 3#4))
    ∧ (s.DimsOk → s.WindowsOk → s.imgSize ≤ s.srcLen.toNat → s.dstLen.toNat < out →
      exec i s = .next (s.failedWith 2#4 4#4))

/-- Rules R90, R167: DECODE reports the first check that fails, in the order source range, destination range, overlap,
stream shorter than its header, signature, bits per pixel, compression, planes, colors used, width, height, pixel data past
the window, destination short, and does nothing else. -/
def Obligations.DecodeReportsTheFirstFailingCheck : Prop :=
  ∀ s : State, exec .decode s = .next (
    let a := s.srcAddr.toNat
    let w := s32 (BitVec.ofNat 32 (memReadLE s.mem (a + 18) 4))
    let h := s32 (BitVec.ofNat 32 (memReadLE s.mem (a + 22) 4))
    let size := h.toNat * ((3 * w.toNat + 3) / 4 * 4)
    let p := if s.params.pixoffMode = .header then memReadLE s.mem (a + 10) 4 else 54
    if s.memSize < a + s.srcLen.toNat then s.failedWith 2#4 1#4
    else if s.memSize < s.dstAddr.toNat + s.dstLen.toNat then s.failedWith 2#4 2#4
    else if 0 < s.srcLen.toNat ∧ 0 < s.dstLen.toNat ∧ a < s.dstAddr.toNat + s.dstLen.toNat
      ∧ s.dstAddr.toNat < a + s.srcLen.toNat then s.failedWith 5#4 0#4
    else if s.srcLen.toNat < 54 then s.failedWith 2#4 3#4
    else if s.mem.read a ≠ 0x42#8 ∨ s.mem.read (a + 1) ≠ 0x4D#8 then s.failedWith 1#4 1#4
    else if memReadLE s.mem (a + 28) 2 ≠ 24 then s.failedWith 1#4 2#4
    else if memReadLE s.mem (a + 30) 4 ≠ 0 then s.failedWith 1#4 3#4
    else if memReadLE s.mem (a + 26) 2 ≠ 1 then s.failedWith 1#4 4#4
    else if memReadLE s.mem (a + 46) 4 ≠ 0 then s.failedWith 1#4 5#4
    else if ¬(1 ≤ w ∧ w ≤ s.maxDim) then s.failedWith 3#4 1#4
    else if ¬(1 ≤ h ∧ h ≤ s.maxDim) then s.failedWith 3#4 2#4
    else if s.srcLen.toNat < p + size then s.failedWith 2#4 3#4
    else if s.dstLen.toNat < size then s.failedWith 2#4 4#4
    else (decodeEffect s).succeed)

/-- Rules R120, R121, R167: HIST reports the first of width, height, source range and source short that fails, whatever the
destination window; LUT reports NO_HISTOGRAM when HIST_N is 0, and otherwise it reports no error (the error fields stay as
they are), so that in a state with no error recorded, as rule R26 requires of every BUSY state, it reports NO_HISTOGRAM
exactly when HIST_N is 0. -/
def Obligations.TableCommandsReportTheFirstFailingCheck : Prop :=
  ∀ s : State,
    (¬(1 ≤ s32 s.width ∧ s32 s.width ≤ s.maxDim) → exec .hist s = .next (s.failedWith 3#4 1#4))
    ∧ ((1 ≤ s32 s.width ∧ s32 s.width ≤ s.maxDim) → ¬(1 ≤ s32 s.height ∧ s32 s.height ≤ s.maxDim) →
      exec .hist s = .next (s.failedWith 3#4 2#4))
    ∧ (s.DimsOk → s.memSize < s.srcAddr.toNat + s.srcLen.toNat → exec .hist s = .next (s.failedWith 2#4 1#4))
    ∧ (s.DimsOk → s.srcAddr.toNat + s.srcLen.toNat ≤ s.memSize → s.srcLen.toNat < s.imgSize →
      exec .hist s = .next (s.failedWith 2#4 3#4))
    ∧ (s.histN = 0#32 → exec .lut s = .next (s.failedWith 6#4 0#4))
    ∧ (s.histN ≠ 0#32 → ∃ t, exec .lut s = .next t ∧ t.err = s.err ∧ t.errCode = s.errCode ∧ t.errDetail = s.errDetail)
    ∧ (s.errCode = 0#4 → (exec .lut s = .next (s.failedWith 6#4 0#4) ↔ s.histN = 0#32))

/-! ### What each command does -/

/-- Rule R90: on a stream that passes every check DECODE succeeds: the H * S bytes at P are copied as stored, WIDTH and
HEIGHT take the raw header fields, OUT_LEN is H * S, every other byte of memory is unchanged and no other register is. -/
def Obligations.DecodeCopiesThePixelData : Prop :=
  ∀ s : State, s.StreamReady → ∃ t, exec .decode s = .next t
    ∧ t = { s with
        mem := t.mem, width := t.width, height := t.height, outLen := t.outLen, phase := .idle, done := true, wait := 0 }
    ∧ t.width.toNat = memReadLE s.mem (s.srcAddr.toNat + 18) 4
    ∧ t.height.toNat = memReadLE s.mem (s.srcAddr.toNat + 22) 4
    ∧ t.outLen.toNat = t.height.toNat * ((3 * t.width.toNat + 3) / 4 * 4)
    ∧ (∀ i, i < t.outLen.toNat → t.mem.read (s.dstAddr.toNat + i) = s.mem.read (s.srcAddr.toNat
        + (if s.params.pixoffMode = .header then memReadLE s.mem (s.srcAddr.toNat + 10) 4 else 54) + i))
    ∧ ∀ a, (a < s.dstAddr.toNat ∨ s.dstAddr.toNat + t.outLen.toNat ≤ a) → t.mem.read a = s.mem.read a

/-- Rules R75, R76, R92: ENCODE writes the 54 header bytes with the field values of the two tables, then the pixel buffer
byte for byte, padding included; OUT_LEN is 54 + H * S; every other byte of memory and every other register is unchanged. -/
def Obligations.EncodeWritesTheStream : Prop :=
  ∀ s : State, s.ImageReady (54 + s.imgSize) → ∃ t, exec .encode s = .next t
    ∧ t = { s with mem := t.mem, outLen := t.outLen, phase := .idle, done := true, wait := 0 }
    ∧ t.outLen.toNat = 54 + s.imgSize
    ∧ t.mem.read s.dstAddr.toNat = 0x42#8 ∧ t.mem.read (s.dstAddr.toNat + 1) = 0x4D#8
    ∧ (∀ off n value, (off, n, value) ∈ [(2, 4, 54 + s.imgSize), (6, 2, 0), (8, 2, 0), (10, 4, 54), (14, 4, 40),
        (18, 4, s.width.toNat), (22, 4, s.height.toNat), (26, 2, 1), (28, 2, 24), (30, 4, 0), (34, 4, s.imgSize),
        (38, 4, 3780), (42, 4, 3780), (46, 4, 0), (50, 4, 0)] →
        memReadLE t.mem (s.dstAddr.toNat + off) n = value)
    ∧ (∀ i, i < s.imgSize → t.mem.read (s.dstAddr.toNat + 54 + i) = s.mem.read (s.srcAddr.toNat + i))
    ∧ ∀ a, (a < s.dstAddr.toNat ∨ s.dstAddr.toNat + (54 + s.imgSize) ≤ a) → t.mem.read a = s.mem.read a

/-- Rule R110: GRAY writes L = (299R + 587G + 114B) div 1000 to the three channels of every pixel and 0 to the padding, and
changes no other byte of memory and no register but OUT_LEN. -/
def Obligations.GrayWritesTheLuminance : Prop :=
  ∀ s : State, s.ImageReady s.imgSize → ∃ t, exec .gray s = .next t
    ∧ t = { s with mem := t.mem, outLen := t.outLen, phase := .idle, done := true, wait := 0 }
    ∧ WritesImage s t fun r c =>
        (299 * (s.mem.read (s.srcAddr.toNat + (pix s.imgW r c + 2))).toNat
          + 587 * (s.mem.read (s.srcAddr.toNat + (pix s.imgW r c + 1))).toNat
          + 114 * (s.mem.read (s.srcAddr.toNat + (pix s.imgW r c + 0))).toNat) / 1000

/-- Rule R120: HIST makes every entry the number of pixels of its channel-0 intensity, HIST_N = W * H and OUT_LEN = 0, and
changes neither memory nor any other register, whatever the destination window. -/
def Obligations.HistCountsEveryPixelOnce : Prop :=
  ∀ s : State, s.HistReady → ∃ t, exec .hist s = .next t
    ∧ t = { s with hist := t.hist, histN := t.histN, outLen := 0#32, phase := .idle, done := true, wait := 0 }
    ∧ (∀ k : Fin 256, (t.hist.get k).toNat = s.pixelsOfIntensity k.val)
    ∧ t.histN.toNat = s.imgW * s.imgH

/-- Rule R121: with a histogram, LUT makes LUT[k] = (255 * (HIST[0] + ... + HIST[k])) div HIST_N for every k and OUT_LEN = 0,
and changes neither memory nor any other register. (The premise that HIST_N is the sum of HIST is rule R32's invariant; it
makes every entry fit in 8 bits.) -/
def Obligations.LutIsTheTruncatedCdf : Prop :=
  ∀ s : State, s.histN ≠ 0#32 → HistogramCounted s → ∃ t, exec .lut s = .next t
    ∧ t = { s with lut := t.lut, outLen := 0#32, phase := .idle, done := true, wait := 0 }
    ∧ ∀ k : Fin 256, (t.lut.get k).toNat
        = 255 * ((s.hist.toList.take (k.val + 1)).map BitVec.toNat).sum / s.histN.toNat

/-- Rules R121, R162: without a premise on HIST, LUT still completes on every state in which HIST_N is not 0. -/
def Obligations.LutCompletesWheneverCounted : Prop :=
  ∀ s : State, s.histN ≠ 0#32 → ∃ t, exec .lut s = .next t
    ∧ t = { s with lut := t.lut, outLen := 0#32, phase := .idle, done := true, wait := 0 }

/-- Rule R122: REMAP writes LUT[k] to the three channels of every pixel, k its channel-0 byte, and 0 to the padding, and
changes no other byte of memory and no register but OUT_LEN. -/
def Obligations.RemapMapsThroughTheLut : Prop :=
  ∀ s : State, s.ImageReady s.imgSize → ∃ t, exec .remap s = .next t
    ∧ t = { s with mem := t.mem, outLen := t.outLen, phase := .idle, done := true, wait := 0 }
    ∧ WritesImage s t fun r c =>
        ((s.lut.toList.map BitVec.toNat).getD (s.mem.read (s.srcAddr.toNat + pix s.imgW r c)).toNat 0)

/-- Rule R123: EQUALIZE counts the histogram, computes the LUT of it and maps every pixel through the new LUT. -/
def Obligations.EqualizeCountsNormalisesAndMaps : Prop :=
  ∀ s : State, s.ImageReady s.imgSize → ∃ t, exec .equalize s = .next t
    ∧ t = { s with
        hist := t.hist, histN := t.histN, lut := t.lut, mem := t.mem, outLen := t.outLen, phase := .idle, done := true,
        wait := 0 }
    ∧ (∀ k : Fin 256, (t.hist.get k).toNat = s.pixelsOfIntensity k.val)
    ∧ t.histN.toNat = s.imgW * s.imgH
    ∧ (∀ k : Fin 256, (t.lut.get k).toNat
        = 255 * ((t.hist.toList.take (k.val + 1)).map BitVec.toNat).sum / (s.imgW * s.imgH))
    ∧ WritesImage s t fun r c =>
        ((t.lut.toList.map BitVec.toNat).getD (s.mem.read (s.srcAddr.toNat + pix s.imgW r c)).toNat 0)

/-- Rule R140: SOBEL writes 255 to the three channels of every interior pixel whose isqrt(Gx^2 + Gy^2) exceeds 100, with Gx
and Gy the dot products of the masks with channel 0 of the 3x3 window, and 0 to every other byte of the output. -/
def Obligations.SobelWritesTheEdgeMap : Prop :=
  ∀ s : State, s.ImageReady s.imgSize → ∃ t, exec .sobel s = .next t
    ∧ t = { s with mem := t.mem, outLen := t.outLen, phase := .idle, done := true, wait := 0 }
    ∧ (∀ r c, s.Interior r c → ∀ ch, ch < 3 →
        t.mem.read (s.dstAddr.toNat + (pix s.imgW r c + ch))
          = if 100 < Nat.sqrt (s.gradX r c ^ 2 + s.gradY r c ^ 2).toNat then 255#8 else 0#8)
    ∧ (∀ r c, r < s.imgH → c < s.imgW → ¬s.Interior r c → ∀ ch, ch < 3 →
        t.mem.read (s.dstAddr.toNat + (pix s.imgW r c + ch)) = 0#8)
    ∧ (∀ r q, r < s.imgH → 3 * s.imgW ≤ q → q < stride s.imgW →
        t.mem.read (s.dstAddr.toNat + (r * stride s.imgW + q)) = 0#8)
    ∧ (∀ a, (a < s.dstAddr.toNat ∨ s.dstAddr.toNat + s.imgSize ≤ a) → t.mem.read a = s.mem.read a)
    ∧ t.outLen.toNat = s.imgSize

/-! ### Frames and noninterference over all commands -/

/-- Rule R65: no command changes a byte of memory outside its destination window; HIST and LUT change no byte at all. -/
def Obligations.CommandsWriteOnlyTheDestinationWindow : Prop :=
  ∀ (i : Instr) (s t : State), exec i s = .next t →
    (∀ a, ¬s.InDst a → t.mem.read a = s.mem.read a)
    ∧ (i = .hist ∨ i = .lut → t.mem = s.mem)

/-- Rule R65: no command depends on a byte outside its source window: on two memories that agree on the source window a
command leaves the same registers, and writes the same byte wherever it writes. -/
def Obligations.CommandsReadOnlyTheSourceWindow : Prop :=
  ∀ (i : Instr) (s : State) (m : Memory), (∀ a, s.InSrc a → m.read a = s.mem.read a) →
    ∃ t u, exec i s = .next t ∧ exec i { s with mem := m } = .next u ∧ u = { t with mem := u.mem }
      ∧ ∀ a, (u.mem.read a = t.mem.read a) ∨ (u.mem.read a = m.read a ∧ t.mem.read a = s.mem.read a)

/-- Rules R28, R29, R32, R36, R37: no command writes an operand register, CMD, CTRL or DROP; only DECODE writes WIDTH and
HEIGHT; only HIST and EQUALIZE write HIST and HIST_N, only LUT and EQUALIZE write LUT, and each of these only when it
succeeds. -/
def Obligations.OnlyTheNamedCommandsWriteResultRegisters : Prop :=
  ∀ (i : Instr) (s t : State), exec i s = .next t →
    t = { s with
      phase := t.phase, done := t.done, err := t.err, errCode := t.errCode, errDetail := t.errDetail, outLen := t.outLen,
      width := t.width, height := t.height, histN := t.histN, hist := t.hist, lut := t.lut, mem := t.mem, wait := t.wait }
    ∧ (t.width ≠ s.width ∨ t.height ≠ s.height → i = .decode ∧ t.err = s.err)
    ∧ (t.hist ≠ s.hist ∨ t.histN ≠ s.histN → (i = .hist ∨ i = .equalize) ∧ t.err = s.err)
    ∧ (t.lut ≠ s.lut → (i = .lut ∨ i = .equalize) ∧ t.err = s.err)

/-- Rules R32, R36, R37: over every step, HIST and HIST_N change only when the engine completes a HIST or EQUALIZE command,
and LUT only when it completes a LUT or EQUALIZE command, in both cases leaving ERR as it was, or when the host's next access
is performed and is a reset (the platform's, or a write to CTRL with bit 1 set), which makes them 0. -/
def Obligations.TablesChangeOnlyByTheirCommandsOrReset : Prop :=
  ∀ s t : State, step s = .next t →
    ((t.hist = s.hist ∧ t.histN = s.histN)
      ∨ (s.engineTurn = true ∧ (s.cmd = encode .hist ∨ s.cmd = encode .equalize) ∧ t.err = s.err)
      ∨ (s.ResetNext ∧ t.hist = Vector.replicate 256 0#32 ∧ t.histN = 0#32))
    ∧ (t.lut = s.lut
      ∨ (s.engineTurn = true ∧ (s.cmd = encode .lut ∨ s.cmd = encode .equalize) ∧ t.err = s.err)
      ∨ (s.ResetNext ∧ t.lut = Vector.replicate 256 0#8))

/-- Rule R41: no command reads a flag as an operand: with any other flags, error fields and interrupt enable, a command
leaves the same memory, HIST, HIST_N, LUT, WIDTH, HEIGHT and OUT_LEN, and keeps IRQ_EN and DROP. -/
def Obligations.CommandsIgnoreTheFlags : Prop :=
  ∀ (i : Instr) (s : State) (irqEn done err drop : Bool) (code detail : BitVec 4),
    ∃ t u, exec i s = .next t
      ∧ exec i { s with
          irqEn := irqEn, done := done, err := err, drop := drop, errCode := code, errDetail := detail } = .next u
      ∧ u = { t with irqEn := irqEn, drop := drop, err := u.err, errCode := u.errCode, errDetail := u.errDetail }

/-! ### Invariants of every step -/

/-- Every step keeps memory in canonical form with every listed address below MEM_SIZE (rule R50). -/
def Obligations.StepKeepsMemoryCanonical : Prop :=
  ∀ s t : State, MemoryCanonical s → step s = .next t → MemoryCanonical t

/-- Every step keeps rule R26's invariants of STATUS. -/
def Obligations.StepKeepsStatusConsistent : Prop :=
  ∀ s t : State, StatusConsistent s → step s = .next t → StatusConsistent t

/-- Every step keeps (ERRCODE, ERRDETAIL) in rule R165's table: reserved codes and details are never produced. -/
def Obligations.StepKeepsErrorPairListed : Prop :=
  ∀ s t : State, ErrorPairListed s → step s = .next t → ErrorPairListed t

/-- Every step keeps rule R32's invariant: HIST_N is the sum of HIST and at most 2^30. -/
def Obligations.StepKeepsHistogramCounted : Prop :=
  ∀ s t : State, HistogramCounted s → step s = .next t → HistogramCounted t

/-- Every step keeps LUT non-decreasing (rule R37), given rule R32's invariant, which every step keeps as well. -/
def Obligations.StepKeepsLutMonotone : Prop :=
  ∀ s t : State, HistogramCounted s → LutMonotone s → step s = .next t → LutMonotone t

/-- The machine right after reset meets every invariant. -/
def Obligations.ResetMeetsTheInvariants : Prop := Inv State.reset

/-- No step changes a parameter (rules R5, R6, R7, R9, R171: they are arguments of the model; log entry 1). -/
def Obligations.StepKeepsTheParameters : Prop :=
  ∀ s t : State, step s = .next t → t.params = s.params

/-- Rules R161, R198: a host that waits for BUSY = 0 sees the completion: within the delay drawn at the issue the engine
is IDLE (weak fairness, modelled by a finite delay, log entry 3). -/
def Obligations.WaitEndsWithTheCompletion : Prop :=
  ∀ (s : State) (rest : List HostOp), s.phase = .busy → s.host = opWait :: rest →
    ∃ t, Host.Core.run core (s.wait + 1) s = .next t ∧ t.phase = .idle ∧ t.done = true ∧ t.host = opWait :: rest

/-! ### Laws of the transforms -/

/-- Rule R91: ENCODE a pixel buffer, then DECODE the stream to another window: the width, the height, the stride and every
byte of the buffer, padding included, come back, under either PIXOFF_MODE. -/
def Obligations.EncodeThenDecodeIsIdentity : Prop :=
  ∀ (s : State) (len addr cap : Word), s.ImageReady (54 + s.imgSize) →
    ∀ t, exec .encode s = .next t →
      ∀ d : State, d = { t with srcAddr := s.dstAddr, srcLen := len, dstAddr := addr, dstLen := cap } →
        54 + s.imgSize ≤ len.toNat → s.imgSize ≤ cap.toNat → d.WindowsOk →
        ∃ u, exec .decode d = .next u ∧ u.err = s.err ∧ u.width = s.width ∧ u.height = s.height
          ∧ strideReg u = strideReg s ∧ u.outLen.toNat = s.imgSize
          ∧ ∀ i, i < s.imgSize → u.mem.read (addr.toNat + i) = s.mem.read (s.srcAddr.toNat + i)

/-- Rule R93: DECODE a stream with P = 54, then ENCODE the decoded image: the first 54 + H * S bytes agree with the stream
everywhere outside the fields DECODE ignores, those fields hold the values ENCODE writes, and so the bytes are the stream's
exactly when the stream's ignored fields hold those values. -/
def Obligations.DecodeThenEncodeKeepsAllButIgnoredFields : Prop :=
  ∀ (s : State) (addr cap : Word), s.StreamReady → s.pixelOffset = 54 →
    ∀ t, exec .decode s = .next t →
      ∀ e : State, e = { t with srcAddr := s.dstAddr, srcLen := s.dstLen, dstAddr := addr, dstLen := cap } →
        54 + s.streamSize ≤ cap.toNat → e.WindowsOk →
        ∀ ignored : List (Nat × Nat × Nat),
          ignored = [(2, 4, 54 + s.streamSize), (6, 2, 0), (8, 2, 0), (10, 4, 54), (14, 4, 40), (34, 4, s.streamSize),
            (38, 4, 3780), (42, 4, 3780), (50, 4, 0)] →
          ∃ u, exec .encode e = .next u ∧ u.err = s.err
            ∧ (∀ i, i < 54 + s.streamSize → (∀ off n value, (off, n, value) ∈ ignored → ¬(off ≤ i ∧ i < off + n)) →
                u.mem.read (addr.toNat + i) = s.mem.read (s.srcAddr.toNat + i))
            ∧ (∀ off n value, (off, n, value) ∈ ignored → memReadLE u.mem (addr.toNat + off) n = value)
            ∧ ((∀ i, i < 54 + s.streamSize → u.mem.read (addr.toNat + i) = s.mem.read (s.srcAddr.toNat + i))
                ↔ ∀ off n value, (off, n, value) ∈ ignored → memReadLE s.mem (s.srcAddr.toNat + off) n = value)

/-- Rule R111: (a) the three channels of a GRAY output are equal; (b) GRAY of a GRAY output reproduces it byte for byte,
padding included; (c) L is non-decreasing in each channel; (d) L(0,0,0) = 0 and L(255,255,255) = 255. -/
def Obligations.GrayIsAMonotoneIdempotentProjection : Prop :=
  (∀ s t : State, s.ImageReady s.imgSize → exec .gray s = .next t →
    (∀ r c, r < s.imgH → c < s.imgW →
      t.mem.read (s.dstAddr.toNat + (pix s.imgW r c + 0)) = t.mem.read (s.dstAddr.toNat + (pix s.imgW r c + 1))
      ∧ t.mem.read (s.dstAddr.toNat + (pix s.imgW r c + 1)) = t.mem.read (s.dstAddr.toNat + (pix s.imgW r c + 2)))
    ∧ ∀ (len addr cap : Word) (d : State),
        d = { t with srcAddr := s.dstAddr, srcLen := len, dstAddr := addr, dstLen := cap } →
        s.imgSize ≤ len.toNat → s.imgSize ≤ cap.toNat → d.WindowsOk →
        ∃ u, exec .gray d = .next u ∧ u.outLen = t.outLen
          ∧ ∀ i, i < s.imgSize → u.mem.read (addr.toNat + i) = t.mem.read (s.dstAddr.toNat + i))
  ∧ (∀ b g r b' g' r' : Byte, b ≤ b' → g ≤ g' → r ≤ r' → luminance b g r ≤ luminance b' g' r')
  ∧ luminance 0#8 0#8 0#8 = 0 ∧ luminance 255#8 255#8 255#8 = 255

/-- Rule R124: for every LUT that LUT or EQUALIZE writes from a histogram of N >= 1 pixels: (a) non-decreasing;
(b) LUT[255] = 255; (c) a constant image of intensity k0 gives 0 below k0 and 255 from k0 on; (d) a uniform histogram gives
LUT[k] = k; (e) 0 below the smallest intensity present; (f) at least 1 from the smallest intensity k1 present on exactly when
255 * HIST[k1] >= N. (For LUT the premise that HIST_N is the sum of HIST is rule R32's invariant.) -/
def Obligations.EqualizationMapLaws : Prop :=
  ∀ s t : State,
    (HistogramCounted s ∧ s.histN ≠ 0#32 ∧ exec .lut s = .next t)
      ∨ (s.ImageReady s.imgSize ∧ exec .equalize s = .next t) →
    1 ≤ t.histN.toNat
    ∧ (∀ k : Nat, k < 255 → (t.lut.get (Fin.ofNat 256 k)).toNat ≤ (t.lut.get (Fin.ofNat 256 (k + 1))).toNat)
    ∧ (t.lut.get 255).toNat = 255
    ∧ (∀ k0 : Fin 256, (∀ k : Fin 256, k ≠ k0 → t.hist.get k = 0#32) →
        ∀ k : Fin 256, (t.lut.get k).toNat = if k < k0 then 0 else 255)
    ∧ (∀ n : Word, (∀ k : Fin 256, t.hist.get k = n) → ∀ k : Fin 256, (t.lut.get k).toNat = k.val)
    ∧ (∀ k1 : Fin 256, (∀ k : Fin 256, k < k1 → t.hist.get k = 0#32) → t.hist.get k1 ≠ 0#32 →
        (∀ k : Fin 256, k < k1 → t.lut.get k = 0#8)
        ∧ ((∀ k : Fin 256, k1 ≤ k → 1 ≤ (t.lut.get k).toNat) ↔ t.histN.toNat ≤ 255 * (t.hist.get k1).toNat))

/-- Rule R123: EQUALIZE leaves what HIST, LUT and REMAP leave one after the other with the same operands: the same memory,
HIST, HIST_N and LUT, and OUT_LEN that of REMAP. -/
def Obligations.EqualizeEqualsHistLutRemap : Prop :=
  ∀ s : State, s.ImageReady s.imgSize →
    ∃ a b c, exec .hist s = .next a ∧ exec .lut a = .next b ∧ exec .remap b = .next c ∧ exec .equalize s = .next c

/-- Rule R143: (a) the one-pixel border of a SOBEL output is black; (b) a uniform-intensity input gives an all-black
output; (c) every output pixel is (0,0,0) or (255,255,255); (d) the padding of the output is 0; (e) the output does not
depend on the input's padding bytes. -/
def Obligations.SobelOutputLaws : Prop :=
  ∀ s t : State, s.ImageReady s.imgSize → exec .sobel s = .next t →
    (∀ r c ch, r < s.imgH → c < s.imgW → ch < 3 → (r = 0 ∨ r + 1 = s.imgH ∨ c = 0 ∨ c + 1 = s.imgW) →
      t.mem.read (s.dstAddr.toNat + (pix s.imgW r c + ch)) = 0#8)
    ∧ (∀ k : Byte, (∀ r c, r < s.imgH → c < s.imgW → s.mem.read (s.srcAddr.toNat + pix s.imgW r c) = k) →
      ∀ i, i < s.imgSize → t.mem.read (s.dstAddr.toNat + i) = 0#8)
    ∧ (∀ r c, r < s.imgH → c < s.imgW →
      (∀ ch, ch < 3 → t.mem.read (s.dstAddr.toNat + (pix s.imgW r c + ch)) = 0#8)
      ∨ ∀ ch, ch < 3 → t.mem.read (s.dstAddr.toNat + (pix s.imgW r c + ch)) = 255#8)
    ∧ (∀ r q, r < s.imgH → 3 * s.imgW ≤ q → q < stride s.imgW →
      t.mem.read (s.dstAddr.toNat + (r * stride s.imgW + q)) = 0#8)
    ∧ ∀ (m : Memory) (u : State),
      (∀ r c ch, r < s.imgH → c < s.imgW → ch < 3 →
        m.read (s.srcAddr.toNat + (pix s.imgW r c + ch)) = s.mem.read (s.srcAddr.toNat + (pix s.imgW r c + ch))) →
      exec .sobel { s with mem := m } = .next u →
      ∀ i, i < s.imgSize → u.mem.read (s.dstAddr.toNat + i) = t.mem.read (s.dstAddr.toNat + i)

/-- Rule R142: for byte intensities, isqrt(Gx^2 + Gy^2) > 100 exactly when Gx^2 + Gy^2 >= 10201, Gx and Gy have the same
parity, and Gx^2 + Gy^2 is never 10201; 10196 gives 0 and 10202 gives 255. -/
def Obligations.SobelThresholdArithmetic : Prop :=
  (∀ w : Nat → Nat → Nat, (edgeValue w = 255#8 ∨ edgeValue w = 0#8)
    ∧ (edgeValue w = 255#8 ↔ 10201 ≤ dotMask maskX w ^ 2 + dotMask maskY w ^ 2)
    ∧ (dotMask maskX w - dotMask maskY w) % 2 = 0
    ∧ dotMask maskX w ^ 2 + dotMask maskY w ^ 2 ≠ 10201)
  ∧ edgeValue (fun i j => if (i, j) = (1, 2) then 7 else if (i, j) = (2, 1) then 50 else 0) = 0#8
  ∧ edgeValue (fun i j => if (i, j) = (1, 2) then 50 else if (i, j) = (2, 2) then 1 else 0) = 255#8

/-- Rule R141: the edge value of a window does not change when the window is transposed, flipped in its rows, or rotated by
180 degrees. -/
def Obligations.SobelOrientationInvariance : Prop :=
  ∀ w : Nat → Nat → Nat,
    edgeValue (fun i j => w j i) = edgeValue w
    ∧ edgeValue (fun i j => w (2 - i) j) = edgeValue w
    ∧ edgeValue (fun i j => w (2 - i) (2 - j)) = edgeValue w
end

