-- ==== Sys2Proof/Laws/Memory.lean ====
section
/-! SUPPORT. Reading and writing buffer memory: a read after a write, the fill of a range, little-endian values, and that
every memory operation keeps the canonical form and the range of addresses. -/

namespace Sys2Proof.Machine

/-! ### Read after write -/

theorem Memory.read_cons (c : Host.Cell) (m : Memory) (x : Nat) :
    Memory.read (c :: m) x = if x = c.1 then c.2 else Memory.read m x := by
  obtain ⟨k, b⟩ := c
  by_cases h : x = k
  · subst h; simp [Memory.read, List.lookup]
  · have : (x == k) = false := by simpa using h
    simp [Memory.read, List.lookup, this, h]

theorem Memory.read_nil (x : Nat) : Memory.read [] x = Memory.unlisted := rfl

theorem Memory.read_erase (m : Memory) (a x : Nat) :
    (m.erase a).read x = if x = a then Memory.unlisted else m.read x := by
  induction m with
  | nil => simp [Memory.erase, Memory.read_nil]
  | cons c m ih =>
    by_cases hc : c.1 = a
    · have : Memory.erase (c :: m) a = Memory.erase m a := by simp [Memory.erase, hc]
      rw [this, ih, Memory.read_cons, hc]
      split <;> simp_all
    · have : Memory.erase (c :: m) a = c :: Memory.erase m a := by simp [Memory.erase, hc]
      rw [this, Memory.read_cons, Memory.read_cons, ih]
      by_cases hx : x = c.1
      · have : x ≠ a := by omega
        simp [hx, hc]
      · simp [hx]

theorem Memory.read_insert (m : Memory) (a : Nat) (b : Byte) (x : Nat) (h : ∀ c ∈ m, c.1 ≠ a) :
    (Memory.insert a b m).read x = if x = a then b else m.read x := by
  induction m with
  | nil => simp [Memory.insert, Memory.read_cons]
  | cons c m ih =>
    have hc : c.1 ≠ a := h c (by simp)
    have ih := ih fun d hd => h d (by simp [hd])
    by_cases ha : a < c.1
    · simp only [Memory.insert, ha, if_true]
      rw [Memory.read_cons]
    · simp only [Memory.insert, ha, if_false]
      rw [Memory.read_cons, Memory.read_cons, ih]
      by_cases hx : x = c.1
      · have : x ≠ a := by omega
        simp [hx, hc]
      · simp [hx]

theorem Memory.erase_ne (m : Memory) (a : Nat) : ∀ c ∈ m.erase a, c.1 ≠ a := by
  intro c hc
  simpa using (List.mem_filter.mp hc).2

/-- A read after a write (rule R12): the byte written at its address, every other byte as before. -/
theorem Memory.read_write (m : Memory) (a : Nat) (b : Byte) (x : Nat) :
    (m.write a b).read x = if x = a then b else m.read x := by
  unfold Memory.write
  split
  · next hb => rw [Memory.read_erase, hb]
  · rw [Memory.read_insert _ _ _ _ (Memory.erase_ne m a), Memory.read_erase]
    split <;> simp_all

/-- A read after a fill: the bytes written in the range, every other byte as before. -/
theorem Memory.read_fill (m : Memory) (a : Nat) (f : Nat → Byte) (n x : Nat) :
    (m.fill a f n).read x = if a ≤ x ∧ x < a + n then f (x - a) else m.read x := by
  induction n with
  | zero => simp [Memory.fill]
  | succ n ih =>
    rw [Memory.fill, Memory.read_write, ih]
    by_cases h1 : x = a + n
    · subst h1; simp
    · by_cases h2 : a ≤ x ∧ x < a + n
      · have h3 : a ≤ x ∧ x < a + (n + 1) := by omega
        simp [h1, h2, h3]
      · have h3 : ¬(a ≤ x ∧ x < a + (n + 1)) := by omega
        simp only [h1, h2, h3, if_false]

theorem Memory.read_fill_inside (m : Memory) (a : Nat) (f : Nat → Byte) (n i : Nat) (h : i < n) :
    (m.fill a f n).read (a + i) = f i := by
  rw [Memory.read_fill, if_pos (by omega)]
  congr 1; omega

theorem Memory.read_fill_outside (m : Memory) (a : Nat) (f : Nat → Byte) (n x : Nat) (h : x < a ∨ a + n ≤ x) :
    (m.fill a f n).read x = m.read x := by
  rw [Memory.read_fill, if_neg (by omega)]

/-! ### Little-endian values -/

/-- A little-endian read depends only on the bytes it reads. -/
theorem memReadLE_congr (m m' : Memory) (a n : Nat) (h : ∀ i, i < n → m.read (a + i) = m'.read (a + i)) :
    memReadLE m a n = memReadLE m' a n := by
  induction n generalizing a with
  | zero => rfl
  | succ n ih =>
    have h0 := h 0 (by omega)
    simp only [Nat.add_zero] at h0
    simp only [memReadLE, h0]
    rw [ih (a + 1) fun i hi => by have := h (i + 1) (by omega); rwa [show a + 1 + i = a + (i + 1) by omega]]

theorem memReadLE_lt (m : Memory) (a n : Nat) : memReadLE m a n < 256 ^ n := by
  induction n generalizing a with
  | zero => simp [memReadLE]
  | succ n ih =>
    have h1 := ih (a + 1)
    have h2 := (m.read a).isLt
    rw [memReadLE, pow_succ]
    omega

theorem leByte_toNat (v i : Nat) : (leByte v i).toNat = v / 256 ^ i % 256 := by
  simp [leByte]

/-- Bytes that are the little-endian bytes of `v` read as `v mod 256^n`. -/
theorem memReadLE_of_leByte (m : Memory) (a n v : Nat) (h : ∀ i, i < n → m.read (a + i) = leByte v i) :
    memReadLE m a n = v % 256 ^ n := by
  induction n generalizing a v with
  | zero => simp [memReadLE, Nat.mod_one]
  | succ n ih =>
    have h0 := h 0 (by omega)
    simp only [Nat.add_zero] at h0
    have h1 := ih (a + 1) (v / 256) fun i hi => by
      have := h (i + 1) (by omega)
      rw [show a + 1 + i = a + (i + 1) by omega, this]
      simp only [leByte, pow_succ', Nat.div_div_eq_div_mul]
    rw [memReadLE, h0, leByte_toNat, h1, pow_succ', Nat.mod_mul]
    simp

theorem length_leBytes (n v : Nat) : (leBytes n v).length = n := by simp [leBytes]

theorem getD_leBytes (n v i : Nat) (h : i < n) : (leBytes n v).getD i 0#8 = leByte v i := by
  simp [leBytes, List.getD, h]

/-! ### The canonical form -/

/-- Addresses strictly rising, as a relation between every two cells. -/
theorem Memory.rising_iff (m : Memory) : m.rising = true ↔ m.Pairwise fun c d => c.1 < d.1 := by
  induction m with
  | nil => simp [Memory.rising]
  | cons c m ih =>
    cases m with
    | nil => simp [Memory.rising]
    | cons d m =>
      simp only [Memory.rising, Bool.and_eq_true, decide_eq_true_eq, ih]
      rw [List.pairwise_cons (a := c)]
      constructor
      · rintro ⟨h1, h2⟩
        refine ⟨fun e he => ?_, h2⟩
        rcases List.mem_cons.mp he with rfl | he
        · exact h1
        · exact lt_trans h1 ((List.pairwise_cons.mp h2).1 e he)
      · rintro ⟨h1, h2⟩
        exact ⟨h1 d (by simp), h2⟩

theorem Memory.wf_iff (m : Memory) :
    m.wf = true ↔ (m.Pairwise fun c d => c.1 < d.1) ∧ ∀ c ∈ m, c.2 ≠ Memory.unlisted := by
  simp [Memory.wf, Memory.rising_iff]

theorem Memory.within_iff (m : Memory) (n : Nat) : m.within n = true ↔ ∀ c ∈ m, c.1 < n := by
  simp [Memory.within]

theorem Memory.mem_insert (a : Nat) (b : Byte) (m : Memory) (c : Host.Cell) (h : c ∈ Memory.insert a b m) :
    c = (a, b) ∨ c ∈ m := by
  induction m with
  | nil => left; simpa [Memory.insert] using h
  | cons d m ih =>
    simp only [Memory.insert] at h
    split at h
    · simpa using h
    · rcases List.mem_cons.mp h with rfl | h
      · right; simp
      · rcases ih h with h | h
        · exact .inl h
        · right; simp [h]

theorem Memory.pairwise_insert (a : Nat) (b : Byte) (m : Memory) (hm : m.Pairwise fun c d => c.1 < d.1)
    (ha : ∀ c ∈ m, c.1 ≠ a) : (Memory.insert a b m).Pairwise fun c d => c.1 < d.1 := by
  induction m with
  | nil => simp [Memory.insert]
  | cons d m ih =>
    obtain ⟨h1, h2⟩ := List.pairwise_cons.mp hm
    simp only [Memory.insert]
    split
    · next h =>
      refine List.pairwise_cons.mpr ⟨fun e he => ?_, hm⟩
      rcases List.mem_cons.mp he with rfl | he
      · exact h
      · exact lt_trans h (h1 e he)
    · next h =>
      have hd := ha d (by simp)
      refine List.pairwise_cons.mpr ⟨fun e he => ?_, ih h2 fun c hc => ha c (by simp [hc])⟩
      rcases Memory.mem_insert a b m e he with rfl | he
      · simp only; omega
      · exact h1 e he

/-- A write keeps the canonical form. -/
theorem Memory.wf_write (m : Memory) (a : Nat) (b : Byte) (h : m.wf = true) : (m.write a b).wf = true := by
  rw [Memory.wf_iff] at h ⊢
  have he : (m.erase a).Pairwise fun c d => c.1 < d.1 := h.1.sublist List.filter_sublist
  have hv : ∀ c ∈ m.erase a, c.2 ≠ Memory.unlisted := fun c hc => h.2 c (List.mem_of_mem_filter hc)
  unfold Memory.write
  split
  · exact ⟨he, hv⟩
  · next hb =>
    refine ⟨Memory.pairwise_insert a b _ he (Memory.erase_ne m a), fun c hc => ?_⟩
    rcases Memory.mem_insert a b _ c hc with rfl | hc
    · exact hb
    · exact hv c hc

/-- A write below `n` keeps every listed address below `n`. -/
theorem Memory.within_write (m : Memory) (a : Nat) (b : Byte) (n : Nat) (h : m.within n = true) (ha : a < n) :
    (m.write a b).within n = true := by
  rw [Memory.within_iff] at h ⊢
  intro c hc
  unfold Memory.write at hc
  split at hc
  · exact h c (List.mem_of_mem_filter hc)
  · rcases Memory.mem_insert a b _ c hc with rfl | hc
    · exact ha
    · exact h c (List.mem_of_mem_filter hc)

/-- A fill keeps the canonical form. -/
theorem Memory.wf_fill (m : Memory) (a : Nat) (f : Nat → Byte) (n : Nat) (h : m.wf = true) :
    (m.fill a f n).wf = true := by
  induction n with
  | zero => exact h
  | succ n ih => exact Memory.wf_write _ _ _ ih

/-- A fill that ends at or below `size` keeps every listed address below `size`. -/
theorem Memory.within_fill (m : Memory) (a : Nat) (f : Nat → Byte) (n size : Nat) (h : m.within size = true)
    (ha : n = 0 ∨ a + n ≤ size) : (m.fill a f n).within size = true := by
  induction n with
  | zero => exact h
  | succ n ih => exact Memory.within_write _ _ _ _ (ih (by omega)) (by omega)

/-- A little-endian write keeps the canonical form. -/
theorem wf_memWriteLE (m : Memory) (a n v : Nat) (h : m.wf = true) : (memWriteLE m a n v).wf = true :=
  Memory.wf_fill _ _ _ _ h

/-- Nothing is listed in memory at reset, so it is canonical. -/
theorem wf_reset : State.reset.mem.wf = true := rfl

/-- Two canonical memories that read the same everywhere are the same list. -/
theorem Memory.ext_of_read (m m' : Memory) (h : m.wf = true) (h' : m'.wf = true)
    (hr : ∀ a, m.read a = m'.read a) : m = m' := by
  rw [Memory.wf_iff] at h h'
  induction m generalizing m' with
  | nil =>
    cases m' with
    | nil => rfl
    | cons c m' =>
      have := hr c.1
      rw [Memory.read_nil, Memory.read_cons, if_pos rfl] at this
      exact absurd this.symm (h'.2 c (by simp))
  | cons c m ih =>
    have low : ∀ (d : Host.Cell) (l : Memory) (x : Nat), (d :: l).Pairwise (fun c d => c.1 < d.1) → x < d.1 →
        Memory.read (d :: l) x = Memory.unlisted := by
      intro d l x hl hx
      have : ∀ (l : Memory), (∀ e ∈ l, x < e.1) → Memory.read l x = Memory.unlisted := by
        intro l hl
        induction l with
        | nil => rfl
        | cons e l ihl =>
          have h1 := hl e (by simp)
          rw [Memory.read_cons, if_neg (by omega), ihl fun e he => hl e (by simp [he])]
      apply this
      intro e he
      rcases List.mem_cons.mp he with rfl | he
      · exact hx
      · exact lt_trans hx ((List.pairwise_cons.mp hl).1 e he)
    cases m' with
    | nil =>
      have := hr c.1
      rw [Memory.read_nil, Memory.read_cons, if_pos rfl] at this
      exact absurd this (h.2 c (by simp))
    | cons d m' =>
      have hk : c.1 = d.1 := by
        rcases Nat.lt_trichotomy c.1 d.1 with hlt | heq | hgt
        · have := hr c.1
          rw [low d m' c.1 h'.1 hlt, Memory.read_cons, if_pos rfl] at this
          exact absurd this (h.2 c (by simp))
        · exact heq
        · have := hr d.1
          rw [low c m d.1 h.1 hgt, Memory.read_cons, if_pos rfl] at this
          exact absurd this.symm (h'.2 d (by simp))
      have hv : c.2 = d.2 := by
        have := hr c.1
        rwa [Memory.read_cons, if_pos rfl, Memory.read_cons, if_pos hk] at this
      have hp := List.pairwise_cons.mp h.1
      have hp' := List.pairwise_cons.mp h'.1
      have hm : m = m' := by
        refine ih m' ⟨hp.2, fun e he => h.2 e (by simp [he])⟩ ⟨hp'.2, fun e he => h'.2 e (by simp [he])⟩ fun x => ?_
        have hx := hr x
        rw [Memory.read_cons, Memory.read_cons, ← hk] at hx
        by_cases hxc : x = c.1
        · have none : ∀ (l : Memory), (∀ e ∈ l, x < e.1) → Memory.read l x = Memory.unlisted := by
            intro l hl
            induction l with
            | nil => rfl
            | cons e l ihl =>
              have h1 := hl e (by simp)
              rw [Memory.read_cons, if_neg (by omega), ihl fun e he => hl e (by simp [he])]
          rw [none m fun e he => by rw [hxc]; exact hp.1 e he, none m' fun e he => by rw [hxc, hk]; exact hp'.1 e he]
        · simpa [hxc] using hx
      rw [hm, Prod.ext hk hv]

end Sys2Proof.Machine
end

