-- ==== Sys2Proof/Laws/State.lean ====
section
/-! SUPPORT. For every named update of the state, what each field of its result is: each true by unfolding, so that no
later proof unfolds a record update. -/

namespace Sys2Proof.Machine

/-! ### State.succeed -/

@[simp] theorem State.succeed_phase (s : State) : s.succeed.phase = .idle := rfl
@[simp] theorem State.succeed_irqEn (s : State) : s.succeed.irqEn = s.irqEn := rfl
@[simp] theorem State.succeed_done (s : State) : s.succeed.done = true := rfl
@[simp] theorem State.succeed_err (s : State) : s.succeed.err = s.err := rfl
@[simp] theorem State.succeed_drop (s : State) : s.succeed.drop = s.drop := rfl
@[simp] theorem State.succeed_errCode (s : State) : s.succeed.errCode = s.errCode := rfl
@[simp] theorem State.succeed_errDetail (s : State) : s.succeed.errDetail = s.errDetail := rfl
@[simp] theorem State.succeed_cmd (s : State) : s.succeed.cmd = s.cmd := rfl
@[simp] theorem State.succeed_srcAddr (s : State) : s.succeed.srcAddr = s.srcAddr := rfl
@[simp] theorem State.succeed_srcLen (s : State) : s.succeed.srcLen = s.srcLen := rfl
@[simp] theorem State.succeed_dstAddr (s : State) : s.succeed.dstAddr = s.dstAddr := rfl
@[simp] theorem State.succeed_dstLen (s : State) : s.succeed.dstLen = s.dstLen := rfl
@[simp] theorem State.succeed_width (s : State) : s.succeed.width = s.width := rfl
@[simp] theorem State.succeed_height (s : State) : s.succeed.height = s.height := rfl
@[simp] theorem State.succeed_outLen (s : State) : s.succeed.outLen = s.outLen := rfl
@[simp] theorem State.succeed_histN (s : State) : s.succeed.histN = s.histN := rfl
@[simp] theorem State.succeed_hist (s : State) : s.succeed.hist = s.hist := rfl
@[simp] theorem State.succeed_lut (s : State) : s.succeed.lut = s.lut := rfl
@[simp] theorem State.succeed_mem (s : State) : s.succeed.mem = s.mem := rfl
@[simp] theorem State.succeed_params (s : State) : s.succeed.params = s.params := rfl
@[simp] theorem State.succeed_host (s : State) : s.succeed.host = s.host := rfl
@[simp] theorem State.succeed_hostReads (s : State) : s.succeed.hostReads = s.hostReads := rfl
@[simp] theorem State.succeed_wait (s : State) : s.succeed.wait = 0 := rfl
@[simp] theorem State.succeed_draws (s : State) : s.succeed.draws = s.draws := rfl

/-! ### State.fail -/

@[simp] theorem State.fail_phase (s : State) (e : EngineError) : (s.fail e).phase = .idle := rfl
@[simp] theorem State.fail_irqEn (s : State) (e : EngineError) : (s.fail e).irqEn = s.irqEn := rfl
@[simp] theorem State.fail_done (s : State) (e : EngineError) : (s.fail e).done = true := rfl
@[simp] theorem State.fail_err (s : State) (e : EngineError) : (s.fail e).err = true := rfl
@[simp] theorem State.fail_drop (s : State) (e : EngineError) : (s.fail e).drop = s.drop := rfl
@[simp] theorem State.fail_errCode (s : State) (e : EngineError) : (s.fail e).errCode = e.code := rfl
@[simp] theorem State.fail_errDetail (s : State) (e : EngineError) : (s.fail e).errDetail = e.detail := rfl
@[simp] theorem State.fail_cmd (s : State) (e : EngineError) : (s.fail e).cmd = s.cmd := rfl
@[simp] theorem State.fail_srcAddr (s : State) (e : EngineError) : (s.fail e).srcAddr = s.srcAddr := rfl
@[simp] theorem State.fail_srcLen (s : State) (e : EngineError) : (s.fail e).srcLen = s.srcLen := rfl
@[simp] theorem State.fail_dstAddr (s : State) (e : EngineError) : (s.fail e).dstAddr = s.dstAddr := rfl
@[simp] theorem State.fail_dstLen (s : State) (e : EngineError) : (s.fail e).dstLen = s.dstLen := rfl
@[simp] theorem State.fail_width (s : State) (e : EngineError) : (s.fail e).width = s.width := rfl
@[simp] theorem State.fail_height (s : State) (e : EngineError) : (s.fail e).height = s.height := rfl
@[simp] theorem State.fail_outLen (s : State) (e : EngineError) : (s.fail e).outLen = 0#32 := rfl
@[simp] theorem State.fail_histN (s : State) (e : EngineError) : (s.fail e).histN = s.histN := rfl
@[simp] theorem State.fail_hist (s : State) (e : EngineError) : (s.fail e).hist = s.hist := rfl
@[simp] theorem State.fail_lut (s : State) (e : EngineError) : (s.fail e).lut = s.lut := rfl
@[simp] theorem State.fail_mem (s : State) (e : EngineError) : (s.fail e).mem = s.mem := rfl
@[simp] theorem State.fail_params (s : State) (e : EngineError) : (s.fail e).params = s.params := rfl
@[simp] theorem State.fail_host (s : State) (e : EngineError) : (s.fail e).host = s.host := rfl
@[simp] theorem State.fail_hostReads (s : State) (e : EngineError) : (s.fail e).hostReads = s.hostReads := rfl
@[simp] theorem State.fail_wait (s : State) (e : EngineError) : (s.fail e).wait = 0 := rfl
@[simp] theorem State.fail_draws (s : State) (e : EngineError) : (s.fail e).draws = s.draws := rfl

/-! ### State.issueAfter -/

@[simp] theorem State.issueAfter_phase (s : State) (v : Word) (n : Nat) : (s.issueAfter v n).phase = .busy := rfl
@[simp] theorem State.issueAfter_irqEn (s : State) (v : Word) (n : Nat) : (s.issueAfter v n).irqEn = s.irqEn := rfl
@[simp] theorem State.issueAfter_done (s : State) (v : Word) (n : Nat) : (s.issueAfter v n).done = false := rfl
@[simp] theorem State.issueAfter_err (s : State) (v : Word) (n : Nat) : (s.issueAfter v n).err = false := rfl
@[simp] theorem State.issueAfter_drop (s : State) (v : Word) (n : Nat) : (s.issueAfter v n).drop = s.drop := rfl
@[simp] theorem State.issueAfter_errCode (s : State) (v : Word) (n : Nat) : (s.issueAfter v n).errCode = 0#4 := rfl
@[simp] theorem State.issueAfter_errDetail (s : State) (v : Word) (n : Nat) : (s.issueAfter v n).errDetail = 0#4 := rfl
@[simp] theorem State.issueAfter_cmd (s : State) (v : Word) (n : Nat) : (s.issueAfter v n).cmd = v := rfl
@[simp] theorem State.issueAfter_srcAddr (s : State) (v : Word) (n : Nat) :
    (s.issueAfter v n).srcAddr = s.srcAddr := rfl
@[simp] theorem State.issueAfter_srcLen (s : State) (v : Word) (n : Nat) : (s.issueAfter v n).srcLen = s.srcLen := rfl
@[simp] theorem State.issueAfter_dstAddr (s : State) (v : Word) (n : Nat) :
    (s.issueAfter v n).dstAddr = s.dstAddr := rfl
@[simp] theorem State.issueAfter_dstLen (s : State) (v : Word) (n : Nat) : (s.issueAfter v n).dstLen = s.dstLen := rfl
@[simp] theorem State.issueAfter_width (s : State) (v : Word) (n : Nat) : (s.issueAfter v n).width = s.width := rfl
@[simp] theorem State.issueAfter_height (s : State) (v : Word) (n : Nat) : (s.issueAfter v n).height = s.height := rfl
@[simp] theorem State.issueAfter_outLen (s : State) (v : Word) (n : Nat) : (s.issueAfter v n).outLen = s.outLen := rfl
@[simp] theorem State.issueAfter_histN (s : State) (v : Word) (n : Nat) : (s.issueAfter v n).histN = s.histN := rfl
@[simp] theorem State.issueAfter_hist (s : State) (v : Word) (n : Nat) : (s.issueAfter v n).hist = s.hist := rfl
@[simp] theorem State.issueAfter_lut (s : State) (v : Word) (n : Nat) : (s.issueAfter v n).lut = s.lut := rfl
@[simp] theorem State.issueAfter_mem (s : State) (v : Word) (n : Nat) : (s.issueAfter v n).mem = s.mem := rfl
@[simp] theorem State.issueAfter_params (s : State) (v : Word) (n : Nat) : (s.issueAfter v n).params = s.params := rfl
@[simp] theorem State.issueAfter_host (s : State) (v : Word) (n : Nat) : (s.issueAfter v n).host = s.host := rfl
@[simp] theorem State.issueAfter_hostReads (s : State) (v : Word) (n : Nat) :
    (s.issueAfter v n).hostReads = s.hostReads := rfl
@[simp] theorem State.issueAfter_wait (s : State) (v : Word) (n : Nat) : (s.issueAfter v n).wait = n := rfl
@[simp] theorem State.issueAfter_draws (s : State) (v : Word) (n : Nat) : (s.issueAfter v n).draws = s.draws := rfl

/-! ### State.engineReset -/

@[simp] theorem State.engineReset_phase (s : State) : s.engineReset.phase = .idle := rfl
@[simp] theorem State.engineReset_irqEn (s : State) : s.engineReset.irqEn = false := rfl
@[simp] theorem State.engineReset_done (s : State) : s.engineReset.done = false := rfl
@[simp] theorem State.engineReset_err (s : State) : s.engineReset.err = false := rfl
@[simp] theorem State.engineReset_drop (s : State) : s.engineReset.drop = false := rfl
@[simp] theorem State.engineReset_errCode (s : State) : s.engineReset.errCode = 0#4 := rfl
@[simp] theorem State.engineReset_errDetail (s : State) : s.engineReset.errDetail = 0#4 := rfl
@[simp] theorem State.engineReset_cmd (s : State) : s.engineReset.cmd = 0#32 := rfl
@[simp] theorem State.engineReset_srcAddr (s : State) : s.engineReset.srcAddr = 0#32 := rfl
@[simp] theorem State.engineReset_srcLen (s : State) : s.engineReset.srcLen = 0#32 := rfl
@[simp] theorem State.engineReset_dstAddr (s : State) : s.engineReset.dstAddr = 0#32 := rfl
@[simp] theorem State.engineReset_dstLen (s : State) : s.engineReset.dstLen = 0#32 := rfl
@[simp] theorem State.engineReset_width (s : State) : s.engineReset.width = 0#32 := rfl
@[simp] theorem State.engineReset_height (s : State) : s.engineReset.height = 0#32 := rfl
@[simp] theorem State.engineReset_outLen (s : State) : s.engineReset.outLen = 0#32 := rfl
@[simp] theorem State.engineReset_histN (s : State) : s.engineReset.histN = 0#32 := rfl
@[simp] theorem State.engineReset_hist (s : State) : s.engineReset.hist = Vector.replicate 256 0#32 := rfl
@[simp] theorem State.engineReset_lut (s : State) : s.engineReset.lut = Vector.replicate 256 0#8 := rfl
@[simp] theorem State.engineReset_mem (s : State) : s.engineReset.mem = s.mem := rfl
@[simp] theorem State.engineReset_params (s : State) : s.engineReset.params = s.params := rfl
@[simp] theorem State.engineReset_host (s : State) : s.engineReset.host = s.host := rfl
@[simp] theorem State.engineReset_hostReads (s : State) : s.engineReset.hostReads = s.hostReads := rfl
@[simp] theorem State.engineReset_wait (s : State) : s.engineReset.wait = 0 := rfl
@[simp] theorem State.engineReset_draws (s : State) : s.engineReset.draws = s.draws := rfl

/-! ### State.dropWrite -/

@[simp] theorem State.dropWrite_phase (s : State) : s.dropWrite.phase = s.phase := rfl
@[simp] theorem State.dropWrite_irqEn (s : State) : s.dropWrite.irqEn = s.irqEn := rfl
@[simp] theorem State.dropWrite_done (s : State) : s.dropWrite.done = s.done := rfl
@[simp] theorem State.dropWrite_err (s : State) : s.dropWrite.err = s.err := rfl
@[simp] theorem State.dropWrite_drop (s : State) : s.dropWrite.drop = true := rfl
@[simp] theorem State.dropWrite_errCode (s : State) : s.dropWrite.errCode = s.errCode := rfl
@[simp] theorem State.dropWrite_errDetail (s : State) : s.dropWrite.errDetail = s.errDetail := rfl
@[simp] theorem State.dropWrite_cmd (s : State) : s.dropWrite.cmd = s.cmd := rfl
@[simp] theorem State.dropWrite_srcAddr (s : State) : s.dropWrite.srcAddr = s.srcAddr := rfl
@[simp] theorem State.dropWrite_srcLen (s : State) : s.dropWrite.srcLen = s.srcLen := rfl
@[simp] theorem State.dropWrite_dstAddr (s : State) : s.dropWrite.dstAddr = s.dstAddr := rfl
@[simp] theorem State.dropWrite_dstLen (s : State) : s.dropWrite.dstLen = s.dstLen := rfl
@[simp] theorem State.dropWrite_width (s : State) : s.dropWrite.width = s.width := rfl
@[simp] theorem State.dropWrite_height (s : State) : s.dropWrite.height = s.height := rfl
@[simp] theorem State.dropWrite_outLen (s : State) : s.dropWrite.outLen = s.outLen := rfl
@[simp] theorem State.dropWrite_histN (s : State) : s.dropWrite.histN = s.histN := rfl
@[simp] theorem State.dropWrite_hist (s : State) : s.dropWrite.hist = s.hist := rfl
@[simp] theorem State.dropWrite_lut (s : State) : s.dropWrite.lut = s.lut := rfl
@[simp] theorem State.dropWrite_mem (s : State) : s.dropWrite.mem = s.mem := rfl
@[simp] theorem State.dropWrite_params (s : State) : s.dropWrite.params = s.params := rfl
@[simp] theorem State.dropWrite_host (s : State) : s.dropWrite.host = s.host := rfl
@[simp] theorem State.dropWrite_hostReads (s : State) : s.dropWrite.hostReads = s.hostReads := rfl
@[simp] theorem State.dropWrite_wait (s : State) : s.dropWrite.wait = s.wait := rfl
@[simp] theorem State.dropWrite_draws (s : State) : s.dropWrite.draws = s.draws := rfl

/-! ### State.tick -/

@[simp] theorem State.tick_phase (s : State) : s.tick.phase = s.phase := rfl
@[simp] theorem State.tick_irqEn (s : State) : s.tick.irqEn = s.irqEn := rfl
@[simp] theorem State.tick_done (s : State) : s.tick.done = s.done := rfl
@[simp] theorem State.tick_err (s : State) : s.tick.err = s.err := rfl
@[simp] theorem State.tick_drop (s : State) : s.tick.drop = s.drop := rfl
@[simp] theorem State.tick_errCode (s : State) : s.tick.errCode = s.errCode := rfl
@[simp] theorem State.tick_errDetail (s : State) : s.tick.errDetail = s.errDetail := rfl
@[simp] theorem State.tick_cmd (s : State) : s.tick.cmd = s.cmd := rfl
@[simp] theorem State.tick_srcAddr (s : State) : s.tick.srcAddr = s.srcAddr := rfl
@[simp] theorem State.tick_srcLen (s : State) : s.tick.srcLen = s.srcLen := rfl
@[simp] theorem State.tick_dstAddr (s : State) : s.tick.dstAddr = s.dstAddr := rfl
@[simp] theorem State.tick_dstLen (s : State) : s.tick.dstLen = s.dstLen := rfl
@[simp] theorem State.tick_width (s : State) : s.tick.width = s.width := rfl
@[simp] theorem State.tick_height (s : State) : s.tick.height = s.height := rfl
@[simp] theorem State.tick_outLen (s : State) : s.tick.outLen = s.outLen := rfl
@[simp] theorem State.tick_histN (s : State) : s.tick.histN = s.histN := rfl
@[simp] theorem State.tick_hist (s : State) : s.tick.hist = s.hist := rfl
@[simp] theorem State.tick_lut (s : State) : s.tick.lut = s.lut := rfl
@[simp] theorem State.tick_mem (s : State) : s.tick.mem = s.mem := rfl
@[simp] theorem State.tick_params (s : State) : s.tick.params = s.params := rfl
@[simp] theorem State.tick_host (s : State) : s.tick.host = s.host := rfl
@[simp] theorem State.tick_hostReads (s : State) : s.tick.hostReads = s.hostReads := rfl
@[simp] theorem State.tick_wait (s : State) : s.tick.wait = s.wait - 1 := rfl
@[simp] theorem State.tick_draws (s : State) : s.tick.draws = s.draws := rfl

/-! ### State.returned -/

@[simp] theorem State.returned_phase (s : State) (v : DWord) : (s.returned v).phase = s.phase := rfl
@[simp] theorem State.returned_irqEn (s : State) (v : DWord) : (s.returned v).irqEn = s.irqEn := rfl
@[simp] theorem State.returned_done (s : State) (v : DWord) : (s.returned v).done = s.done := rfl
@[simp] theorem State.returned_err (s : State) (v : DWord) : (s.returned v).err = s.err := rfl
@[simp] theorem State.returned_drop (s : State) (v : DWord) : (s.returned v).drop = s.drop := rfl
@[simp] theorem State.returned_errCode (s : State) (v : DWord) : (s.returned v).errCode = s.errCode := rfl
@[simp] theorem State.returned_errDetail (s : State) (v : DWord) : (s.returned v).errDetail = s.errDetail := rfl
@[simp] theorem State.returned_cmd (s : State) (v : DWord) : (s.returned v).cmd = s.cmd := rfl
@[simp] theorem State.returned_srcAddr (s : State) (v : DWord) : (s.returned v).srcAddr = s.srcAddr := rfl
@[simp] theorem State.returned_srcLen (s : State) (v : DWord) : (s.returned v).srcLen = s.srcLen := rfl
@[simp] theorem State.returned_dstAddr (s : State) (v : DWord) : (s.returned v).dstAddr = s.dstAddr := rfl
@[simp] theorem State.returned_dstLen (s : State) (v : DWord) : (s.returned v).dstLen = s.dstLen := rfl
@[simp] theorem State.returned_width (s : State) (v : DWord) : (s.returned v).width = s.width := rfl
@[simp] theorem State.returned_height (s : State) (v : DWord) : (s.returned v).height = s.height := rfl
@[simp] theorem State.returned_outLen (s : State) (v : DWord) : (s.returned v).outLen = s.outLen := rfl
@[simp] theorem State.returned_histN (s : State) (v : DWord) : (s.returned v).histN = s.histN := rfl
@[simp] theorem State.returned_hist (s : State) (v : DWord) : (s.returned v).hist = s.hist := rfl
@[simp] theorem State.returned_lut (s : State) (v : DWord) : (s.returned v).lut = s.lut := rfl
@[simp] theorem State.returned_mem (s : State) (v : DWord) : (s.returned v).mem = s.mem := rfl
@[simp] theorem State.returned_params (s : State) (v : DWord) : (s.returned v).params = s.params := rfl
@[simp] theorem State.returned_host (s : State) (v : DWord) : (s.returned v).host = s.host := rfl
@[simp] theorem State.returned_hostReads (s : State) (v : DWord) : (s.returned v).hostReads = v :: s.hostReads := rfl
@[simp] theorem State.returned_wait (s : State) (v : DWord) : (s.returned v).wait = s.wait := rfl
@[simp] theorem State.returned_draws (s : State) (v : DWord) : (s.returned v).draws = s.draws := rfl

/-! ### writeStatus -/

@[simp] theorem writeStatus_phase (s : State) (v : Word) : (writeStatus s v).phase = s.phase := rfl
@[simp] theorem writeStatus_irqEn (s : State) (v : Word) : (writeStatus s v).irqEn = s.irqEn := rfl
@[simp] theorem writeStatus_done (s : State) (v : Word) : (writeStatus s v).done = (s.done && !v.getLsbD 1) := rfl
@[simp] theorem writeStatus_err (s : State) (v : Word) : (writeStatus s v).err = s.err := rfl
@[simp] theorem writeStatus_drop (s : State) (v : Word) : (writeStatus s v).drop = (s.drop && !v.getLsbD 3) := rfl
@[simp] theorem writeStatus_errCode (s : State) (v : Word) : (writeStatus s v).errCode = s.errCode := rfl
@[simp] theorem writeStatus_errDetail (s : State) (v : Word) : (writeStatus s v).errDetail = s.errDetail := rfl
@[simp] theorem writeStatus_cmd (s : State) (v : Word) : (writeStatus s v).cmd = s.cmd := rfl
@[simp] theorem writeStatus_srcAddr (s : State) (v : Word) : (writeStatus s v).srcAddr = s.srcAddr := rfl
@[simp] theorem writeStatus_srcLen (s : State) (v : Word) : (writeStatus s v).srcLen = s.srcLen := rfl
@[simp] theorem writeStatus_dstAddr (s : State) (v : Word) : (writeStatus s v).dstAddr = s.dstAddr := rfl
@[simp] theorem writeStatus_dstLen (s : State) (v : Word) : (writeStatus s v).dstLen = s.dstLen := rfl
@[simp] theorem writeStatus_width (s : State) (v : Word) : (writeStatus s v).width = s.width := rfl
@[simp] theorem writeStatus_height (s : State) (v : Word) : (writeStatus s v).height = s.height := rfl
@[simp] theorem writeStatus_outLen (s : State) (v : Word) : (writeStatus s v).outLen = s.outLen := rfl
@[simp] theorem writeStatus_histN (s : State) (v : Word) : (writeStatus s v).histN = s.histN := rfl
@[simp] theorem writeStatus_hist (s : State) (v : Word) : (writeStatus s v).hist = s.hist := rfl
@[simp] theorem writeStatus_lut (s : State) (v : Word) : (writeStatus s v).lut = s.lut := rfl
@[simp] theorem writeStatus_mem (s : State) (v : Word) : (writeStatus s v).mem = s.mem := rfl
@[simp] theorem writeStatus_params (s : State) (v : Word) : (writeStatus s v).params = s.params := rfl
@[simp] theorem writeStatus_host (s : State) (v : Word) : (writeStatus s v).host = s.host := rfl
@[simp] theorem writeStatus_hostReads (s : State) (v : Word) : (writeStatus s v).hostReads = s.hostReads := rfl
@[simp] theorem writeStatus_wait (s : State) (v : Word) : (writeStatus s v).wait = s.wait := rfl
@[simp] theorem writeStatus_draws (s : State) (v : Word) : (writeStatus s v).draws = s.draws := rfl

/-! ### State.writeImage -/

@[simp] theorem State.writeImage_phase (s : State) (p : Nat → Nat → Byte) : (s.writeImage p).phase = s.phase := rfl
@[simp] theorem State.writeImage_irqEn (s : State) (p : Nat → Nat → Byte) : (s.writeImage p).irqEn = s.irqEn := rfl
@[simp] theorem State.writeImage_done (s : State) (p : Nat → Nat → Byte) : (s.writeImage p).done = s.done := rfl
@[simp] theorem State.writeImage_err (s : State) (p : Nat → Nat → Byte) : (s.writeImage p).err = s.err := rfl
@[simp] theorem State.writeImage_drop (s : State) (p : Nat → Nat → Byte) : (s.writeImage p).drop = s.drop := rfl
@[simp] theorem State.writeImage_errCode (s : State) (p : Nat → Nat → Byte) :
    (s.writeImage p).errCode = s.errCode := rfl
@[simp] theorem State.writeImage_errDetail (s : State) (p : Nat → Nat → Byte) :
    (s.writeImage p).errDetail = s.errDetail := rfl
@[simp] theorem State.writeImage_cmd (s : State) (p : Nat → Nat → Byte) : (s.writeImage p).cmd = s.cmd := rfl
@[simp] theorem State.writeImage_srcAddr (s : State) (p : Nat → Nat → Byte) :
    (s.writeImage p).srcAddr = s.srcAddr := rfl
@[simp] theorem State.writeImage_srcLen (s : State) (p : Nat → Nat → Byte) : (s.writeImage p).srcLen = s.srcLen := rfl
@[simp] theorem State.writeImage_dstAddr (s : State) (p : Nat → Nat → Byte) :
    (s.writeImage p).dstAddr = s.dstAddr := rfl
@[simp] theorem State.writeImage_dstLen (s : State) (p : Nat → Nat → Byte) : (s.writeImage p).dstLen = s.dstLen := rfl
@[simp] theorem State.writeImage_width (s : State) (p : Nat → Nat → Byte) : (s.writeImage p).width = s.width := rfl
@[simp] theorem State.writeImage_height (s : State) (p : Nat → Nat → Byte) : (s.writeImage p).height = s.height := rfl
@[simp] theorem State.writeImage_outLen (s : State) (p : Nat → Nat → Byte) :
    (s.writeImage p).outLen = BitVec.ofNat 32 s.imgSize := rfl
@[simp] theorem State.writeImage_histN (s : State) (p : Nat → Nat → Byte) : (s.writeImage p).histN = s.histN := rfl
@[simp] theorem State.writeImage_hist (s : State) (p : Nat → Nat → Byte) : (s.writeImage p).hist = s.hist := rfl
@[simp] theorem State.writeImage_lut (s : State) (p : Nat → Nat → Byte) : (s.writeImage p).lut = s.lut := rfl
@[simp] theorem State.writeImage_mem (s : State) (p : Nat → Nat → Byte) :
    (s.writeImage p).mem = s.mem.fill s.dstAddr.toNat (imageByte s.imgW p) s.imgSize := rfl
@[simp] theorem State.writeImage_params (s : State) (p : Nat → Nat → Byte) : (s.writeImage p).params = s.params := rfl
@[simp] theorem State.writeImage_host (s : State) (p : Nat → Nat → Byte) : (s.writeImage p).host = s.host := rfl
@[simp] theorem State.writeImage_hostReads (s : State) (p : Nat → Nat → Byte) :
    (s.writeImage p).hostReads = s.hostReads := rfl
@[simp] theorem State.writeImage_wait (s : State) (p : Nat → Nat → Byte) : (s.writeImage p).wait = s.wait := rfl
@[simp] theorem State.writeImage_draws (s : State) (p : Nat → Nat → Byte) : (s.writeImage p).draws = s.draws := rfl

/-! ### decodeEffect -/

@[simp] theorem decodeEffect_phase (s : State) : (decodeEffect s).phase = s.phase := rfl
@[simp] theorem decodeEffect_irqEn (s : State) : (decodeEffect s).irqEn = s.irqEn := rfl
@[simp] theorem decodeEffect_done (s : State) : (decodeEffect s).done = s.done := rfl
@[simp] theorem decodeEffect_err (s : State) : (decodeEffect s).err = s.err := rfl
@[simp] theorem decodeEffect_drop (s : State) : (decodeEffect s).drop = s.drop := rfl
@[simp] theorem decodeEffect_errCode (s : State) : (decodeEffect s).errCode = s.errCode := rfl
@[simp] theorem decodeEffect_errDetail (s : State) : (decodeEffect s).errDetail = s.errDetail := rfl
@[simp] theorem decodeEffect_cmd (s : State) : (decodeEffect s).cmd = s.cmd := rfl
@[simp] theorem decodeEffect_srcAddr (s : State) : (decodeEffect s).srcAddr = s.srcAddr := rfl
@[simp] theorem decodeEffect_srcLen (s : State) : (decodeEffect s).srcLen = s.srcLen := rfl
@[simp] theorem decodeEffect_dstAddr (s : State) : (decodeEffect s).dstAddr = s.dstAddr := rfl
@[simp] theorem decodeEffect_dstLen (s : State) : (decodeEffect s).dstLen = s.dstLen := rfl
@[simp] theorem decodeEffect_width (s : State) : (decodeEffect s).width = s.streamWidth := rfl
@[simp] theorem decodeEffect_height (s : State) : (decodeEffect s).height = s.streamHeight := rfl
@[simp] theorem decodeEffect_outLen (s : State) : (decodeEffect s).outLen = BitVec.ofNat 32 s.streamSize := rfl
@[simp] theorem decodeEffect_histN (s : State) : (decodeEffect s).histN = s.histN := rfl
@[simp] theorem decodeEffect_hist (s : State) : (decodeEffect s).hist = s.hist := rfl
@[simp] theorem decodeEffect_lut (s : State) : (decodeEffect s).lut = s.lut := rfl
@[simp] theorem decodeEffect_mem (s : State) :
    (decodeEffect s).mem = s.mem.fill s.dstAddr.toNat (fun i => s.mem.read (s.srcAddr.toNat + s.pixelOffset + i)) s.streamSize := rfl
@[simp] theorem decodeEffect_params (s : State) : (decodeEffect s).params = s.params := rfl
@[simp] theorem decodeEffect_host (s : State) : (decodeEffect s).host = s.host := rfl
@[simp] theorem decodeEffect_hostReads (s : State) : (decodeEffect s).hostReads = s.hostReads := rfl
@[simp] theorem decodeEffect_wait (s : State) : (decodeEffect s).wait = s.wait := rfl
@[simp] theorem decodeEffect_draws (s : State) : (decodeEffect s).draws = s.draws := rfl

/-! ### encodeEffect -/

@[simp] theorem encodeEffect_phase (s : State) : (encodeEffect s).phase = s.phase := rfl
@[simp] theorem encodeEffect_irqEn (s : State) : (encodeEffect s).irqEn = s.irqEn := rfl
@[simp] theorem encodeEffect_done (s : State) : (encodeEffect s).done = s.done := rfl
@[simp] theorem encodeEffect_err (s : State) : (encodeEffect s).err = s.err := rfl
@[simp] theorem encodeEffect_drop (s : State) : (encodeEffect s).drop = s.drop := rfl
@[simp] theorem encodeEffect_errCode (s : State) : (encodeEffect s).errCode = s.errCode := rfl
@[simp] theorem encodeEffect_errDetail (s : State) : (encodeEffect s).errDetail = s.errDetail := rfl
@[simp] theorem encodeEffect_cmd (s : State) : (encodeEffect s).cmd = s.cmd := rfl
@[simp] theorem encodeEffect_srcAddr (s : State) : (encodeEffect s).srcAddr = s.srcAddr := rfl
@[simp] theorem encodeEffect_srcLen (s : State) : (encodeEffect s).srcLen = s.srcLen := rfl
@[simp] theorem encodeEffect_dstAddr (s : State) : (encodeEffect s).dstAddr = s.dstAddr := rfl
@[simp] theorem encodeEffect_dstLen (s : State) : (encodeEffect s).dstLen = s.dstLen := rfl
@[simp] theorem encodeEffect_width (s : State) : (encodeEffect s).width = s.width := rfl
@[simp] theorem encodeEffect_height (s : State) : (encodeEffect s).height = s.height := rfl
@[simp] theorem encodeEffect_outLen (s : State) : (encodeEffect s).outLen = BitVec.ofNat 32 (hdrLen + s.imgSize) := rfl
@[simp] theorem encodeEffect_histN (s : State) : (encodeEffect s).histN = s.histN := rfl
@[simp] theorem encodeEffect_hist (s : State) : (encodeEffect s).hist = s.hist := rfl
@[simp] theorem encodeEffect_lut (s : State) : (encodeEffect s).lut = s.lut := rfl
@[simp] theorem encodeEffect_mem (s : State) :
    (encodeEffect s).mem = s.mem.fill s.dstAddr.toNat s.streamByte (hdrLen + s.imgSize) := rfl
@[simp] theorem encodeEffect_params (s : State) : (encodeEffect s).params = s.params := rfl
@[simp] theorem encodeEffect_host (s : State) : (encodeEffect s).host = s.host := rfl
@[simp] theorem encodeEffect_hostReads (s : State) : (encodeEffect s).hostReads = s.hostReads := rfl
@[simp] theorem encodeEffect_wait (s : State) : (encodeEffect s).wait = s.wait := rfl
@[simp] theorem encodeEffect_draws (s : State) : (encodeEffect s).draws = s.draws := rfl

/-! ### histEffect -/

@[simp] theorem histEffect_phase (s : State) : (histEffect s).phase = s.phase := rfl
@[simp] theorem histEffect_irqEn (s : State) : (histEffect s).irqEn = s.irqEn := rfl
@[simp] theorem histEffect_done (s : State) : (histEffect s).done = s.done := rfl
@[simp] theorem histEffect_err (s : State) : (histEffect s).err = s.err := rfl
@[simp] theorem histEffect_drop (s : State) : (histEffect s).drop = s.drop := rfl
@[simp] theorem histEffect_errCode (s : State) : (histEffect s).errCode = s.errCode := rfl
@[simp] theorem histEffect_errDetail (s : State) : (histEffect s).errDetail = s.errDetail := rfl
@[simp] theorem histEffect_cmd (s : State) : (histEffect s).cmd = s.cmd := rfl
@[simp] theorem histEffect_srcAddr (s : State) : (histEffect s).srcAddr = s.srcAddr := rfl
@[simp] theorem histEffect_srcLen (s : State) : (histEffect s).srcLen = s.srcLen := rfl
@[simp] theorem histEffect_dstAddr (s : State) : (histEffect s).dstAddr = s.dstAddr := rfl
@[simp] theorem histEffect_dstLen (s : State) : (histEffect s).dstLen = s.dstLen := rfl
@[simp] theorem histEffect_width (s : State) : (histEffect s).width = s.width := rfl
@[simp] theorem histEffect_height (s : State) : (histEffect s).height = s.height := rfl
@[simp] theorem histEffect_outLen (s : State) : (histEffect s).outLen = 0#32 := rfl
@[simp] theorem histEffect_histN (s : State) : (histEffect s).histN = BitVec.ofNat 32 (s.imgW * s.imgH) := rfl
@[simp] theorem histEffect_hist (s : State) :
    (histEffect s).hist = Vector.ofFn fun k => BitVec.ofNat 32 (s.intensities.count (BitVec.ofNat 8 k.val)) := rfl
@[simp] theorem histEffect_lut (s : State) : (histEffect s).lut = s.lut := rfl
@[simp] theorem histEffect_mem (s : State) : (histEffect s).mem = s.mem := rfl
@[simp] theorem histEffect_params (s : State) : (histEffect s).params = s.params := rfl
@[simp] theorem histEffect_host (s : State) : (histEffect s).host = s.host := rfl
@[simp] theorem histEffect_hostReads (s : State) : (histEffect s).hostReads = s.hostReads := rfl
@[simp] theorem histEffect_wait (s : State) : (histEffect s).wait = s.wait := rfl
@[simp] theorem histEffect_draws (s : State) : (histEffect s).draws = s.draws := rfl

/-! ### lutEffect -/

@[simp] theorem lutEffect_phase (s : State) : (lutEffect s).phase = s.phase := rfl
@[simp] theorem lutEffect_irqEn (s : State) : (lutEffect s).irqEn = s.irqEn := rfl
@[simp] theorem lutEffect_done (s : State) : (lutEffect s).done = s.done := rfl
@[simp] theorem lutEffect_err (s : State) : (lutEffect s).err = s.err := rfl
@[simp] theorem lutEffect_drop (s : State) : (lutEffect s).drop = s.drop := rfl
@[simp] theorem lutEffect_errCode (s : State) : (lutEffect s).errCode = s.errCode := rfl
@[simp] theorem lutEffect_errDetail (s : State) : (lutEffect s).errDetail = s.errDetail := rfl
@[simp] theorem lutEffect_cmd (s : State) : (lutEffect s).cmd = s.cmd := rfl
@[simp] theorem lutEffect_srcAddr (s : State) : (lutEffect s).srcAddr = s.srcAddr := rfl
@[simp] theorem lutEffect_srcLen (s : State) : (lutEffect s).srcLen = s.srcLen := rfl
@[simp] theorem lutEffect_dstAddr (s : State) : (lutEffect s).dstAddr = s.dstAddr := rfl
@[simp] theorem lutEffect_dstLen (s : State) : (lutEffect s).dstLen = s.dstLen := rfl
@[simp] theorem lutEffect_width (s : State) : (lutEffect s).width = s.width := rfl
@[simp] theorem lutEffect_height (s : State) : (lutEffect s).height = s.height := rfl
@[simp] theorem lutEffect_outLen (s : State) : (lutEffect s).outLen = 0#32 := rfl
@[simp] theorem lutEffect_histN (s : State) : (lutEffect s).histN = s.histN := rfl
@[simp] theorem lutEffect_hist (s : State) : (lutEffect s).hist = s.hist := rfl
@[simp] theorem lutEffect_lut (s : State) :
    (lutEffect s).lut = Vector.ofFn fun k => BitVec.ofNat 8 (lutEntry s.hist s.histN.toNat k.val) := rfl
@[simp] theorem lutEffect_mem (s : State) : (lutEffect s).mem = s.mem := rfl
@[simp] theorem lutEffect_params (s : State) : (lutEffect s).params = s.params := rfl
@[simp] theorem lutEffect_host (s : State) : (lutEffect s).host = s.host := rfl
@[simp] theorem lutEffect_hostReads (s : State) : (lutEffect s).hostReads = s.hostReads := rfl
@[simp] theorem lutEffect_wait (s : State) : (lutEffect s).wait = s.wait := rfl
@[simp] theorem lutEffect_draws (s : State) : (lutEffect s).draws = s.draws := rfl

end Sys2Proof.Machine
end

