-- ==== Sys2Proof/Laws/Ops.lean ====
section
/-! SUPPORT. What the shared operations of a command's lifecycle can do: the first failing check, completion, the abandoned
command and reset. -/

namespace Sys2Proof.Machine

@[simp] theorem firstError_nil : firstError [] = none := rfl

@[simp] theorem firstError_cons (b : Bool) (e : EngineError) (cs : List Check) :
    firstError ((b, e) :: cs) = if b = true then some e else firstError cs := rfl

/-- No check fails exactly when every check passes. -/
theorem firstError_eq_none (cs : List Check) : firstError cs = none ↔ ∀ c ∈ cs, c.1 = false := by
  induction cs with
  | nil => simp
  | cons c cs ih =>
    obtain ⟨b, e⟩ := c
    cases b <;> simp [ih]

/-- The error reported is that of a failing check before which every check passes (rule R167). -/
theorem firstError_eq_some (cs : List Check) (e : EngineError) :
    firstError cs = some e ↔ ∃ pre post, cs = pre ++ (true, e) :: post ∧ ∀ c ∈ pre, c.1 = false := by
  induction cs with
  | nil => simp
  | cons c cs ih =>
    obtain ⟨b, e'⟩ := c
    cases b with
    | true =>
      simp only [firstError_cons, if_true, Option.some.injEq]
      constructor
      · rintro rfl; exact ⟨[], cs, rfl, by simp⟩
      · rintro ⟨pre, post, h, hp⟩
        cases pre with
        | nil => simp only [List.nil_append, List.cons.injEq, Prod.mk.injEq, true_and] at h; exact h.1
        | cons d pre =>
          have := hp d (by simp)
          simp only [List.cons_append, List.cons.injEq] at h
          rw [← h.1] at this
          cases this
    | false =>
      simp only [firstError_cons, Bool.false_eq_true, if_false, ih]
      constructor
      · rintro ⟨pre, post, h, hp⟩
        refine ⟨(false, e') :: pre, post, by simp [h], ?_⟩
        intro c hc
        rcases List.mem_cons.mp hc with rfl | hc
        · rfl
        · exact hp c hc
      · rintro ⟨pre, post, h, hp⟩
        cases pre with
        | nil => simp at h
        | cons d pre =>
          simp only [List.cons_append, List.cons.injEq] at h
          exact ⟨pre, post, h.2, fun c hc => hp c (by simp [hc])⟩

theorem State.complete_of_none (s : State) (cs : List Check) (t : State) (h : firstError cs = none) :
    s.complete cs t = .next t.succeed := by simp [State.complete, h]

theorem State.complete_of_some (s : State) (cs : List Check) (t : State) (e : EngineError)
    (h : firstError cs = some e) : s.complete cs t = .next (s.fail e) := by simp [State.complete, h]

/-- Everything a completion can do: the effect with success, or the failure and nothing else. -/
theorem State.complete_cases {s : State} {cs : List Check} {effect t : State} (h : s.complete cs effect = .next t) :
    (firstError cs = none ∧ t = effect.succeed) ∨ ∃ e, firstError cs = some e ∧ t = s.fail e := by
  unfold State.complete at h
  split at h
  · next e he => exact .inr ⟨e, he, by simpa using h.symm⟩
  · next he => exact .inl ⟨he, by simpa using h.symm⟩

/-! ### Abandoning a command, and reset -/

theorem State.abandon_of_idle (s : State) (h : s.phase = .idle) : s.abandon = s := by simp [State.abandon, h]

/-- Everything abandoning can do: the memory and the counter of free values change, nothing else. -/
theorem State.abandon_eq (s : State) : s.abandon = { s with mem := s.abandon.mem, draws := s.abandon.draws } := by
  unfold State.abandon
  split <;> rfl

/-- Bytes outside the destination window of an abandoned command keep their value (rule R191). -/
theorem State.abandon_read_outside (s : State) (a : Nat)
    (h : a < s.dstAddr.toNat ∨ s.dstAddr.toNat + s.dstLen.toNat ≤ a) : s.abandon.mem.read a = s.mem.read a := by
  unfold State.abandon
  split
  · rfl
  · rw [Memory.read_fill_outside]
    have : s.dstBytesInMemory ≤ s.dstLen.toNat := Nat.min_le_left _ _
    omega

theorem State.abandon_mem_wf (s : State) (h : s.mem.wf = true) : s.abandon.mem.wf = true := by
  unfold State.abandon
  split
  · exact h
  · exact Memory.wf_fill _ _ _ _ h

theorem State.abandon_mem_within (s : State) (h : s.mem.within s.memSize = true) :
    s.abandon.mem.within s.memSize = true := by
  unfold State.abandon
  split
  · exact h
  · refine Memory.within_fill _ _ _ _ _ h ?_
    have : s.dstBytesInMemory ≤ s.memSize - s.dstAddr.toNat := Nat.min_le_right _ _
    omega

/-- A soft reset leaves everything but the engine's registers, the memory of an abandoned command and the counter. -/
theorem State.softReset_eq (s : State) :
    s.softReset = { s.engineReset with mem := s.abandon.mem, draws := s.abandon.draws } := by
  unfold State.softReset
  rw [State.abandon_eq]
  rfl

theorem State.hardReset_eq (s : State) :
    s.hardReset = { s.engineReset with mem := s.abandon.mem, draws := s.abandon.draws } := by
  unfold State.hardReset
  rw [State.abandon_eq]
  rfl

end Sys2Proof.Machine
end

