-- ==== Sys2Proof/Laws/Operands.lean ====
section
/-! SUPPORT. The row stride and the pixel helpers, the bytes of a new image, the ranges of signed dimensions, and what the
checks say. -/

namespace Sys2Proof.Machine

/-! ### Stride and pixels (rules R15, R54) -/

/-- The stride is a multiple of 4 and between 3W and 3W + 3 (rules R30, R54). -/
theorem stride_bounds (w : Nat) : stride w % 4 = 0 ∧ 3 * w ≤ stride w ∧ stride w ≤ 3 * w + 3 := by
  unfold stride; omega

theorem stride_pos {w : Nat} (h : 1 ≤ w) : 0 < stride w := by have := stride_bounds w; omega

/-- An offset inside row r is before the end of the buffer. -/
theorem row_offset_lt {S r H q : Nat} (hr : r < H) (hq : q < S) : r * S + q < H * S := by
  have : (r + 1) * S ≤ H * S := Nat.mul_le_mul_right S hr
  have : (r + 1) * S = r * S + S := by ring
  omega

theorem pix_lt_size {w r c ch H : Nat} (hr : r < H) (hc : c < w) (hch : ch < 3) :
    pix w r c + ch < H * stride w := by
  have := stride_bounds w
  have h := row_offset_lt (S := stride w) (q := 3 * c + ch) hr (by omega)
  unfold pix; omega

/-- The byte of a new image at a pixel's channel. -/
theorem imageByte_pix (w : Nat) (p : Nat → Nat → Byte) {r c ch : Nat} (hc : c < w) (hch : ch < 3) :
    imageByte w p (pix w r c + ch) = p r c := by
  have hs := stride_bounds w
  have hq : 3 * c + ch < stride w := by omega
  have hmod : (pix w r c + ch) % stride w = 3 * c + ch := by
    unfold pix
    rw [show r * stride w + 3 * c + ch = 3 * c + ch + r * stride w by ring, Nat.add_mul_mod_self_right,
      Nat.mod_eq_of_lt hq]
  have hdiv : (pix w r c + ch) / stride w = r := by
    unfold pix
    rw [show r * stride w + 3 * c + ch = 3 * c + ch + r * stride w by ring, Nat.add_mul_div_right _ _ (by omega),
      Nat.div_eq_of_lt hq, Nat.zero_add]
  unfold imageByte
  rw [hmod, hdiv, if_pos (by omega)]
  congr 1; omega

/-- The byte of a new image at a padding offset is 0 (rule R56). -/
theorem imageByte_padding (w : Nat) (p : Nat → Nat → Byte) {r q : Nat} (h1 : 3 * w ≤ q) (h2 : q < stride w) :
    imageByte w p (r * stride w + q) = 0#8 := by
  unfold imageByte
  rw [show r * stride w + q = q + r * stride w by ring, Nat.add_mul_mod_self_right, Nat.mod_eq_of_lt h2,
    if_neg (by omega)]

/-- A new image depends only on the pixels inside the picture. -/
theorem imageByte_congr (w H : Nat) (p p' : Nat → Nat → Byte) (h : ∀ r c, r < H → c < w → p r c = p' r c) {o : Nat}
    (ho : o < H * stride w) : imageByte w p o = imageByte w p' o := by
  unfold imageByte
  split
  · next hq =>
    refine h _ _ ?_ (by omega)
    exact Nat.div_lt_of_lt_mul (by rwa [Nat.mul_comm])
  · rfl

/-- A fill depends only on the bytes of its range. -/
theorem Memory.fill_congr (m : Memory) (a : Nat) (f g : Nat → Byte) (n : Nat) (h : ∀ i, i < n → f i = g i) :
    m.fill a f n = m.fill a g n := by
  induction n with
  | zero => rfl
  | succ n ih => rw [Memory.fill, Memory.fill, ih fun i hi => h i (by omega), h n (by omega)]

/-! ### The memory after writing an image -/

theorem writeImage_read_pix (s : State) (p : Nat → Nat → Byte) {r c ch : Nat} (hr : r < s.imgH) (hc : c < s.imgW)
    (hch : ch < 3) : (s.writeImage p).mem.read (s.dstAddr.toNat + (pix s.imgW r c + ch)) = p r c := by
  rw [State.writeImage_mem, Memory.read_fill_inside _ _ _ s.imgSize _ (pix_lt_size hr hc hch), imageByte_pix _ _ hc hch]

theorem writeImage_read_padding (s : State) (p : Nat → Nat → Byte) {r q : Nat} (hr : r < s.imgH)
    (h1 : 3 * s.imgW ≤ q) (h2 : q < stride s.imgW) :
    (s.writeImage p).mem.read (s.dstAddr.toNat + (r * stride s.imgW + q)) = 0#8 := by
  rw [State.writeImage_mem, Memory.read_fill_inside _ _ _ s.imgSize _ (row_offset_lt hr h2), imageByte_padding _ _ h1 h2]

theorem writeImage_read_outside (s : State) (p : Nat → Nat → Byte) {a : Nat}
    (h : a < s.dstAddr.toNat ∨ s.dstAddr.toNat + s.imgSize ≤ a) : (s.writeImage p).mem.read a = s.mem.read a := by
  rw [State.writeImage_mem, Memory.read_fill_outside _ _ _ _ _ h]

/-! ### Signed dimensions (rules R6, R11, R29) -/

/-- A 32-bit value in 1 .. 2^31 - 1 is its own signed value. -/
theorem s32_of_pos {u : Word} (h : 1 ≤ s32 u) : s32 u = u.toNat ∧ u.toNat < 2 ^ 31 := by
  unfold s32 at h ⊢
  have := u.isLt
  split at h <;> simp_all; omega

theorem dimOk_iff (m : Nat) (d : Int) : dimOk m d = true ↔ 1 ≤ d ∧ d ≤ m := by simp [dimOk]

theorem maxDim_bounds (p : Params) : 1 ≤ p.maxDim ∧ p.maxDim ≤ 32767 := by
  have := p.maxDimLessOne.isLt
  unfold Params.maxDim; omega

theorem memSize_bounds (p : Params) : 1 ≤ p.memSize ∧ p.memSize ≤ 2 ^ 32 := by
  have := p.memSizeLessOne.isLt
  unfold Params.memSize; omega

/-- The size of an accepted image fits a 32-bit length register, with the header too (rules R6, R92). -/
theorem size_fits {w h m : Nat} (hm : m ≤ 32767) (hw : w ≤ m) (hh : h ≤ m) : hdrLen + h * stride w < 2 ^ 32 := by
  have := stride_bounds w
  have h1 : h * stride w ≤ 32767 * 98304 := Nat.mul_le_mul (by omega) (by unfold stride; omega)
  simp only [hdrLen]; omega

/-- The number of pixels of an accepted image is at most 2^30 (rule R6). -/
theorem pixels_fit {w h m : Nat} (hm : m ≤ 32767) (hw : w ≤ m) (hh : h ≤ m) : w * h ≤ 2 ^ 30 := by
  have h1 : w * h ≤ 32767 * 32767 := Nat.mul_le_mul (by omega) (by omega)
  omega

/-! ### Windows and checks (rules R28, R166) -/

/-- An access touches a window exactly when they share a byte. -/
theorem touches_iff (addr n start len : Nat) :
    touches addr n start len = true ↔ ∃ a, (addr ≤ a ∧ a < addr + n) ∧ start ≤ a ∧ a < start + len := by
  simp only [touches, Bool.and_eq_true, decide_eq_true_eq]
  constructor
  · rintro ⟨⟨⟨h1, h2⟩, h3⟩, h4⟩
    exact ⟨max addr start, by omega, by omega⟩
  · rintro ⟨a, h1, h2⟩; omega

/-- `CHK_OVERLAP` fails exactly when the two windows share a byte. -/
theorem chkOverlap_iff (s : State) :
    (chkOverlap s).1 = true ↔ ∃ a, (s.srcAddr.toNat ≤ a ∧ a < s.srcAddr.toNat + s.srcLen.toNat)
      ∧ s.dstAddr.toNat ≤ a ∧ a < s.dstAddr.toNat + s.dstLen.toNat := by
  simp only [chkOverlap, Bool.and_eq_true, decide_eq_true_eq]
  constructor
  · rintro ⟨⟨⟨h1, h2⟩, h3⟩, h4⟩
    exact ⟨max s.srcAddr.toNat s.dstAddr.toNat, by omega, by omega⟩
  · rintro ⟨a, h1, h2⟩; omega

/-- What it means that none of an image command's checks fails. -/
theorem imageChecks_none_iff (s : State) (out : Nat) :
    firstError (imageChecks s out) = none ↔
      (1 ≤ s32 s.width ∧ s32 s.width ≤ s.maxDim) ∧ (1 ≤ s32 s.height ∧ s32 s.height ≤ s.maxDim)
      ∧ s.srcAddr.toNat + s.srcLen.toNat ≤ s.memSize ∧ s.dstAddr.toNat + s.dstLen.toNat ≤ s.memSize
      ∧ (chkOverlap s).1 = false ∧ s.imgSize ≤ s.srcLen.toNat ∧ out ≤ s.dstLen.toNat := by
  rw [firstError_eq_none]
  simp only [imageChecks, chkDim, chkSrcRange, chkDstRange, chkSrcShort, chkDstShort, List.cons_append,
    List.nil_append, List.forall_mem_cons, List.not_mem_nil, false_implies, implies_true, and_true,
    Bool.not_eq_false', dimOk_iff, decide_eq_false_iff_not, not_lt]

end Sys2Proof.Machine
end

