-- ==== Sys2Proof/Laws/Codec.lean ====
section
/-! SUPPORT. The bytes of the header ENCODE writes, by offset (rules R75, R76). -/

namespace Sys2Proof.Machine

/-- The fields of the header, in the order of their offsets: offset, size in bytes, value (rules R75, R76). -/
theorem bmpHeader_eq (w h : Word) (n : Nat) :
    bmpHeader w h n =
      [0x42#8, 0x4D#8,
        leByte (hdrLen + n) 0, leByte (hdrLen + n) 1, leByte (hdrLen + n) 2, leByte (hdrLen + n) 3,
        leByte 0 0, leByte 0 1, leByte 0 0, leByte 0 1,
        leByte hdrLen 0, leByte hdrLen 1, leByte hdrLen 2, leByte hdrLen 3,
        leByte 40 0, leByte 40 1, leByte 40 2, leByte 40 3,
        leByte w.toNat 0, leByte w.toNat 1, leByte w.toNat 2, leByte w.toNat 3,
        leByte h.toNat 0, leByte h.toNat 1, leByte h.toNat 2, leByte h.toNat 3,
        leByte 1 0, leByte 1 1, leByte 24 0, leByte 24 1,
        leByte 0 0, leByte 0 1, leByte 0 2, leByte 0 3,
        leByte n 0, leByte n 1, leByte n 2, leByte n 3,
        leByte xyRes 0, leByte xyRes 1, leByte xyRes 2, leByte xyRes 3,
        leByte xyRes 0, leByte xyRes 1, leByte xyRes 2, leByte xyRes 3,
        leByte 0 0, leByte 0 1, leByte 0 2, leByte 0 3,
        leByte 0 0, leByte 0 1, leByte 0 2, leByte 0 3] := rfl

theorem length_bmpHeader (w h : Word) (n : Nat) : (bmpHeader w h n).length = hdrLen := by
  rw [bmpHeader_eq]; rfl

/-- Byte `i` of the header's part of the stream in the destination window after ENCODE's effect. -/
theorem encodeEffect_read_header (s : State) (i : Nat) (h : i < hdrLen) :
    (encodeEffect s).mem.read (s.dstAddr.toNat + i) = (bmpHeader s.width s.height s.imgSize).getD i 0#8 := by
  have : i < hdrLen + s.imgSize := by omega
  rw [encodeEffect_mem, Memory.read_fill_inside _ _ _ _ _ this, State.streamByte, if_pos h]

/-- Byte `i` of the pixel data in the destination window after ENCODE's effect. -/
theorem encodeEffect_read_pixels (s : State) (i : Nat) (h : i < s.imgSize) :
    (encodeEffect s).mem.read (s.dstAddr.toNat + hdrLen + i) = s.mem.read (s.srcAddr.toNat + i) := by
  have h1 : hdrLen + i < hdrLen + s.imgSize := by omega
  have h2 : ¬hdrLen + i < hdrLen := by omega
  rw [encodeEffect_mem, Nat.add_assoc, Memory.read_fill_inside _ _ _ _ _ h1, State.streamByte, if_neg h2,
    Nat.add_sub_cancel_left]

theorem encodeEffect_read_outside (s : State) (a : Nat)
    (h : a < s.dstAddr.toNat ∨ s.dstAddr.toNat + (hdrLen + s.imgSize) ≤ a) :
    (encodeEffect s).mem.read a = s.mem.read a := by
  rw [encodeEffect_mem, Memory.read_fill_outside _ _ _ _ _ h]

/-- The copied pixel data after DECODE's effect. -/
theorem decodeEffect_read (s : State) (i : Nat) (h : i < s.streamSize) :
    (decodeEffect s).mem.read (s.dstAddr.toNat + i) = s.mem.read (s.srcAddr.toNat + s.pixelOffset + i) := by
  rw [decodeEffect_mem, Memory.read_fill_inside _ _ _ _ _ h]

theorem decodeEffect_read_outside (s : State) (a : Nat)
    (h : a < s.dstAddr.toNat ∨ s.dstAddr.toNat + s.streamSize ≤ a) :
    (decodeEffect s).mem.read a = s.mem.read a := by
  rw [decodeEffect_mem, Memory.read_fill_outside _ _ _ _ _ h]

end Sys2Proof.Machine
end

