-- ==== Sys2Proof/Laws/Host.lean ====
section
/-! SUPPORT. What one step can do: the completion of a command or one host access, and everything each of them can do. -/

namespace Sys2Proof.Machine

/-! ### The step -/

/-- Everything a step can be: the completion of the command that is BUSY, the host's next access, or nothing. -/
theorem step_cases (s : State) :
    (s.engineTurn = true ∧ step s = engineStep s)
    ∨ (s.engineTurn = false ∧ s.phase = .busy ∧ step s = hostStep s.tick)
    ∨ (s.phase = .idle ∧ step s = hostStep s) := by
  unfold step
  cases h : s.phase with
  | idle => exact .inr (.inr ⟨rfl, rfl⟩)
  | busy =>
    cases ht : s.engineTurn with
    | true => exact .inl ⟨rfl, by simp⟩
    | false => exact .inr (.inl ⟨rfl, rfl, by simp⟩)

theorem engineTurn_iff (s : State) : s.engineTurn = true ↔ s.phase = .busy ∧ (s.wait = 0 ∨ s.host = []) := by
  simp [State.engineTurn, State.busy]

/-- Everything the completion step can be (rules R72, R161). -/
theorem engineStep_cases {s t : State} (h : engineStep s = .next t) :
    (∃ i, decode s.cmd = .command i ∧ exec i s = .next t)
    ∨ ∃ e, decode s.cmd = .illegal e ∧ t = s.fail (decodeFailure e) := by
  unfold engineStep at h
  split at h
  · next i hi => exact .inl ⟨i, hi, h⟩
  · next e he => exact .inr ⟨e, he, by simpa using h.symm⟩

/-- Everything the host's turn can be: its next access, taken off the program, or nothing. -/
theorem hostStep_cases {s t : State} (h : hostStep s = .next t) :
    (s.host = [] ∧ t = s) ∨ ∃ op rest, s.host = op :: rest ∧ access { s with host := rest } op = .next t := by
  unfold hostStep at h
  split at h
  · next hh => exact .inl ⟨hh, by simpa using h.symm⟩
  · next op rest hh => exact .inr ⟨op, rest, hh, h⟩

/-! ### Host accesses -/

/-- A register read changes nothing but the model's counter of free values (rule R58). -/
theorem csrRead_state (s : State) (r : Csr) : (csrRead s r).2 = { s with draws := (csrRead s r).2.draws } := by
  unfold csrRead
  split <;> rfl

/-- Everything an access that answers a next state can be. -/
theorem access_cases {s t : State} {op : HostOp} (h : access s op = .next t) :
    (∃ w off v, op = .csrWrite w off v ∧ csrFormOk w off = true ∧ t = csrWrite s (Csr.ofOffset off) v)
    ∨ (∃ n v l, t = { s with draws := n, hostReads := v, host := l } ∧ (l = s.host ∨ l = op :: s.host))
    ∨ (∃ w a v, op = .memWrite w a v ∧ a + w.bytes ≤ s.memSize
        ∧ (s.phase = .idle ∨ (s.touchesSrc a w.bytes = false ∧ s.touchesDst a w.bytes = false))
        ∧ t = { s with mem := memWriteLE s.mem a w.bytes v.toNat })
    ∨ (op = .platformReset ∧ t = s.hardReset) := by
  cases op with
  | csrWrite w off v =>
    simp only [access, accessCsrWrite] at h
    split at h
    · next hf => exact .inl ⟨w, off, v, rfl, hf, by simpa using h.symm⟩
    · cases h
  | csrRead w off =>
    simp only [access, accessCsrRead] at h
    split at h
    · refine .inr (.inl ⟨(csrRead s (Csr.ofOffset off)).2.draws,
        ((csrRead s (Csr.ofOffset off)).1.setWidth 64) :: s.hostReads, s.host, ?_, .inl rfl⟩)
      have := csrRead_state s (Csr.ofOffset off)
      simp only [Host.Outcome.next.injEq] at h
      rw [← h, this]; rfl
    · cases h
  | csrPoll off mask value =>
    simp only [access, accessCsrPoll] at h
    split at h
    · have hs := csrRead_state s (Csr.ofOffset off)
      simp only [Host.Outcome.next.injEq] at h
      refine .inr (.inl ⟨(csrRead s (Csr.ofOffset off)).2.draws,
        ((csrRead s (Csr.ofOffset off)).1.setWidth 64) :: s.hostReads, t.host, ?_, ?_⟩)
      · rw [← h]
        split <;> rw [hs] <;> rfl
      · rw [← h]
        split
        · left; rw [hs]; rfl
        · right; rw [hs]; rfl
    · cases h
  | memWrite w a v =>
    simp only [access, accessMemWrite] at h
    split at h
    · cases h
    · next h1 =>
      split at h
      · cases h
      · next h2 =>
        refine .inr (.inr (.inl ⟨w, a, v, rfl, by omega, ?_, by simpa using h.symm⟩))
        cases hp : s.phase with
        | idle => exact .inl rfl
        | busy => right; simpa [State.busy, hp] using h2
  | memRead w a =>
    simp only [access, accessMemRead] at h
    split at h
    · cases h
    · split at h
      · cases h
      · refine .inr (.inl ⟨s.draws, BitVec.ofNat 64 (memReadLE s.mem a w.bytes) :: s.hostReads, s.host, ?_, .inl rfl⟩)
        simp only [Host.Outcome.next.injEq] at h
        rw [← h]; rfl
  | platformReset => exact .inr (.inr (.inr ⟨rfl, by simpa [access] using h.symm⟩))

/-- Everything a register write can do (rules R25 to R37): a field of the host's choice, an issue, a dropped write, a soft
reset, or nothing. -/
theorem csrWrite_cases (s : State) (r : Csr) (v : Word) :
    (r = .ctrl ∧ csrWrite s r v = writeCtrl s v)
    ∨ (r = .status ∧ csrWrite s r v = writeStatus s v)
    ∨ (r = .cmd ∧ s.phase = .idle ∧ csrWrite s r v = s.issue v)
    ∨ (s.phase = .busy ∧ csrWrite s r v = s.dropWrite)
    ∨ (s.phase = .idle ∧ ∃ sa sl da dl w h, csrWrite s r v =
        { s with srcAddr := sa, srcLen := sl, dstAddr := da, dstLen := dl, width := w, height := h })
    ∨ csrWrite s r v = s := by
  cases hp : s.phase with
  | idle =>
    cases r <;> simp only [csrWrite, whenIdle, hp]
    case ctrl => simp
    case status => simp
    case cmd => simp
    case srcAddr => exact .inr (.inr (.inr (.inr (.inl ⟨trivial, v, s.srcLen, s.dstAddr, s.dstLen, s.width, s.height, rfl⟩))))
    case srcLen => exact .inr (.inr (.inr (.inr (.inl ⟨trivial, s.srcAddr, v, s.dstAddr, s.dstLen, s.width, s.height, rfl⟩))))
    case dstAddr => exact .inr (.inr (.inr (.inr (.inl ⟨trivial, s.srcAddr, s.srcLen, v, s.dstLen, s.width, s.height, rfl⟩))))
    case dstLen => exact .inr (.inr (.inr (.inr (.inl ⟨trivial, s.srcAddr, s.srcLen, s.dstAddr, v, s.width, s.height, rfl⟩))))
    case width => exact .inr (.inr (.inr (.inr (.inl ⟨trivial, s.srcAddr, s.srcLen, s.dstAddr, s.dstLen, v, s.height, rfl⟩))))
    case height => exact .inr (.inr (.inr (.inr (.inl ⟨trivial, s.srcAddr, s.srcLen, s.dstAddr, s.dstLen, s.width, v, rfl⟩))))
    all_goals simp
  | busy =>
    cases r <;> simp only [csrWrite, whenIdle, hp] <;> simp

/-- Everything a write to CTRL can do (rule R25). -/
theorem writeCtrl_cases (s : State) (v : Word) :
    (v.getLsbD 1 = false ∧ writeCtrl s v = { s with irqEn := v.getLsbD 0 })
    ∨ (v.getLsbD 1 = true ∧ writeCtrl s v = s.softReset) := by
  cases h : v.getLsbD 1 with
  | false => exact .inl ⟨rfl, by unfold writeCtrl; rw [h]; rfl⟩
  | true =>
    right
    refine ⟨rfl, ?_⟩
    simp only [writeCtrl, h, if_true]
    rw [State.softReset_eq, State.softReset_eq]
    simp only [State.engineReset, State.abandon]
    cases s.phase <;> rfl

/-! ### The register map (rule R24) -/

set_option maxRecDepth 100000 in
theorem ofOffset_hist (k : Fin 256) : Csr.ofOffset (Csr.hist k).offset = .hist k := by
  revert k; decide

set_option maxRecDepth 100000 in
theorem ofOffset_lut (k : Fin 256) : Csr.ofOffset (Csr.lut k).offset = .lut k := by
  revert k; decide

set_option maxRecDepth 100000 in
/-- CTRL stands at offset 0 and nowhere else. -/
theorem ofOffset_eq_ctrl (off : BitVec 12) : Csr.ofOffset off = .ctrl ↔ off = 0x000#12 := by
  revert off; decide

/-! ### HIST, HIST_N and LUT under the host's accesses -/

/-- No register write but a soft reset changes HIST, HIST_N or LUT. -/
theorem csrWrite_keeps_tables (s : State) (r : Csr) (v : Word) (h : r ≠ .ctrl ∨ v.getLsbD 1 = false) :
    (csrWrite s r v).hist = s.hist ∧ (csrWrite s r v).histN = s.histN ∧ (csrWrite s r v).lut = s.lut := by
  rcases csrWrite_cases s r v with ⟨hr, e⟩ | ⟨_, e⟩ | ⟨_, _, e⟩ | ⟨_, e⟩ | ⟨_, _, _, _, _, _, _, e⟩ | e <;> rw [e]
  · rcases writeCtrl_cases s v with ⟨_, e'⟩ | ⟨hv, _⟩
    · rw [e']; exact ⟨rfl, rfl, rfl⟩
    · simp_all
  all_goals exact ⟨rfl, rfl, rfl⟩

/-- A host access leaves HIST, HIST_N and LUT as they are, or it is a reset, which makes them 0. -/
theorem access_tables {s t : State} {op : HostOp} (h : access s op = .next t) :
    (t.hist = s.hist ∧ t.histN = s.histN ∧ t.lut = s.lut)
    ∨ ((op = .platformReset ∨ ∃ v : Word, v.getLsbD 1 = true ∧ op = .csrWrite .b32 0x000#12 v)
      ∧ t.hist = Vector.replicate 256 0#32 ∧ t.histN = 0#32 ∧ t.lut = Vector.replicate 256 0#8) := by
  rcases access_cases h with ⟨w, off, v, rfl, hf, rfl⟩ | ⟨n, v, l, rfl, _⟩ | ⟨w, a, v, _, _, _, rfl⟩ | ⟨rfl, rfl⟩
  · by_cases hr : Csr.ofOffset off = .ctrl ∧ v.getLsbD 1 = true
    · obtain ⟨hc, hv⟩ := hr
      have hw : w = .b32 := by simp [csrFormOk] at hf; exact hf.1
      rw [ofOffset_eq_ctrl] at hc
      subst hw hc
      refine .inr ⟨.inr ⟨v, hv, rfl⟩, ?_⟩
      rcases writeCtrl_cases s v with ⟨hv', _⟩ | ⟨_, e⟩
      · simp_all
      · show (writeCtrl s v).hist = _ ∧ (writeCtrl s v).histN = _ ∧ (writeCtrl s v).lut = _
        rw [e, State.softReset_eq]; exact ⟨rfl, rfl, rfl⟩
    · exact .inl (csrWrite_keeps_tables s _ v (by cases hb : v.getLsbD 1 <;> simp_all))
  · exact .inl ⟨rfl, rfl, rfl⟩
  · exact .inl ⟨rfl, rfl, rfl⟩
  · rw [State.hardReset_eq]; exact .inr ⟨.inl rfl, rfl, rfl, rfl⟩

end Sys2Proof.Machine
end

