-- ==== Sys2Proof/Laws/Isqrt.lean ====
section
/-! SUPPORT. `isqrt` is the integer square root (rule R10). -/

namespace Sys2Proof.Machine

/-- Invariant of the binary search: the root stays at or below the true one and within the bits still to be set. -/
theorem isqrtBits_spec (n k r : Nat) (h1 : r * r ≤ n) (h2 : n < (r + 2 ^ k) * (r + 2 ^ k)) :
    isqrtBits n k r * isqrtBits n k r ≤ n ∧ n < (isqrtBits n k r + 1) * (isqrtBits n k r + 1) := by
  induction k generalizing r with
  | zero => simpa [isqrtBits] using ⟨h1, h2⟩
  | succ k ih =>
    rw [isqrtBits]
    split
    · next h => exact ih _ h (by rw [pow_succ] at h2; rwa [show r + 2 ^ k + 2 ^ k = r + 2 ^ k * 2 by ring])
    · next h => exact ih _ h1 (by omega)

/-- `isqrt n` is the largest integer whose square is at most `n` (rule R10). -/
theorem isqrt_spec (n : Nat) : isqrt n * isqrt n ≤ n ∧ n < (isqrt n + 1) * (isqrt n + 1) := by
  unfold isqrt
  refine isqrtBits_spec n _ 0 (by simp) ?_
  have h : n < 2 ^ (n.log2 + 1) := Nat.lt_log2_self
  have : 2 ^ (n.log2 + 1) ≤ (0 + 2 ^ (n.log2 / 2 + 1)) * (0 + 2 ^ (n.log2 / 2 + 1)) := by
    rw [Nat.zero_add, ← pow_add]
    exact Nat.pow_le_pow_right (by omega) (by omega)
  omega

/-- The root exceeds `k` exactly when the square of `k + 1` does not exceed `n`. -/
theorem lt_isqrt_iff (n k : Nat) : k < isqrt n ↔ (k + 1) * (k + 1) ≤ n := by
  obtain ⟨h1, h2⟩ := isqrt_spec n
  constructor
  · intro h; exact le_trans (Nat.mul_le_mul h h) h1
  · intro h
    by_contra hc
    have : (isqrt n + 1) * (isqrt n + 1) ≤ (k + 1) * (k + 1) := Nat.mul_le_mul (by omega) (by omega)
    omega

end Sys2Proof.Machine
end

