-- ==== Sys2Proof/Laws/PerInstr.lean ====
section
/-! SUPPORT. Statements about every command as syntax, one lemma per constructor. -/

namespace Sys2Proof.Laws.EncodedFields

/-- The word of a command has the opcode of the opcode map in OPC and 0 in RSV (rules R70, R71), and its fields read back
as they were written. -/
def Statement (i : Instr) : Prop :=
  (fieldsOfInstr i).wellFormed = true ∧ CmdFields.ofWord (encode i) = fieldsOfInstr i

theorem decode : Statement .decode := ⟨by decide, by decide⟩
theorem encode : Statement .encode := ⟨by decide, by decide⟩
theorem gray : Statement .gray := ⟨by decide, by decide⟩
theorem hist : Statement .hist := ⟨by decide, by decide⟩
theorem lut : Statement .lut := ⟨by decide, by decide⟩
theorem remap : Statement .remap := ⟨by decide, by decide⟩
theorem equalize : Statement .equalize := ⟨by decide, by decide⟩
theorem sobel : Statement .sobel := ⟨by decide, by decide⟩

end Sys2Proof.Laws.EncodedFields
end

