-- ==== Sys2Proof/Tests/Slice0.lean ====
section
/-! SUPPORT. The model's own tests: ill-formed words, words written out from the encoding tables, at most two steps per
command from the spec's test vectors (95_test_vectors.md, named by their ids there), and a witness for every hypothesis of
the statements. -/

set_option maxRecDepth 60000

namespace Sys2Proof.Tests

open Sys2Proof Sys2Proof.Machine

/-! ### Small states -/

/-- MEM_SIZE = 0x10000, MAX_DIM = 32767, the assumed parameters of 95_test_vectors.md. -/
def params (mode : PixoffMode) : Params := ⟨0xFFFF#32, ⟨32766, by decide⟩, mode, 0, 0⟩

/-- The reset state with those parameters. -/
def idle : State := { State.reset with params := params .header }

/-- Memory holding the given bytes from address 0 on. -/
def bytes (l : List Byte) : Memory := Memory.fill [] 0 (fun i => l.getD i 0#8) l.length

/-- A BUSY command whose turn has come: windows [0, sl) and [da, da + dl), dimensions w by h, and the bytes at 0. -/
def busy (i : Instr) (sl da dl w h : Word) (l : List Byte) : State :=
  { idle with
    phase := .busy, cmd := encode i, srcLen := sl, dstAddr := da, dstLen := dl, width := w, height := h, mem := bytes l }

/-- What a command leaves: STATUS, OUT_LEN and `n` bytes at the destination. -/
def result (i : Instr) (s : State) (n : Nat) : Option (Nat × Nat × List Nat) :=
  match exec i s with
  | .next t => some ((statusWord t).toNat, t.outLen.toNat,
      (List.range n).map fun k => (t.mem.read (s.dstAddr.toNat + k)).toNat)
  | _ => none

/-- A value of the state a step gives. -/
def after {α : Type} (f : State → α) : Host.Outcome State Fault Refusal → Option α
  | .next t => some (f t)
  | _ => none

/-! ### Ill-formed words are refused (rules R70 to R73) -/

theorem test_opcDefined_refuses_0 : CmdFields.opcDefined ⟨0#8, 0#24⟩ = false := by decide
theorem test_opcDefined_refuses_9 : CmdFields.opcDefined ⟨9#8, 0#24⟩ = false := by decide
theorem test_rsvZero_refuses_bit_8 : CmdFields.rsvZero ⟨1#8, 1#24⟩ = false := by decide
theorem test_wellFormed_refuses_both : CmdFields.wellFormed ⟨0#8, 0#24⟩ = false
    ∧ CmdFields.wellFormed ⟨8#8, 0x800000#24⟩ = false := by decide
theorem test_instr_wellFormed : ∀ i : Instr, i.wellFormed = true := by intro i; cases i <;> decide

/-! ### Words written out bit by bit from rules R70 and R71: RSV in 31:8, OPC in 7:0 -/

theorem test_decode_word_decode : decode 0b00000000000000000000000000000001#32 = .command .decode := by decide
theorem test_decode_word_encode : decode 0b00000000000000000000000000000010#32 = .command .encode := by decide
theorem test_decode_word_gray : decode 0b00000000000000000000000000000011#32 = .command .gray := by decide
theorem test_decode_word_hist : decode 0b00000000000000000000000000000100#32 = .command .hist := by decide
theorem test_decode_word_lut : decode 0b00000000000000000000000000000101#32 = .command .lut := by decide
theorem test_decode_word_remap : decode 0b00000000000000000000000000000110#32 = .command .remap := by decide
theorem test_decode_word_equalize : decode 0b00000000000000000000000000000111#32 = .command .equalize := by decide
theorem test_decode_word_sobel : decode 0b00000000000000000000000000001000#32 = .command .sobel := by decide
theorem test_decode_word_16 : decode 0b00000000000000000000000000010000#32 = .illegal .reservedOpcode := by decide
theorem test_decode_word_bit_31 : decode 0b10000000000000000000000000001000#32 = .illegal .reservedBits := by decide
theorem test_table_word : decodeTableWord 32 8 = some .sobel ∧ decodeTableWord 32 0x108 = none := by decide

/-- 95_test_vectors.md 2.2: C1, C4 and C5, with the STATUS words given there. -/
theorem test_illegal_words_complete :
    after (fun t => (statusWord t).toNat) (step (idle.withFetchWord 32 0)) = some 0x1406
    ∧ after (fun t => (statusWord t).toNat) (step (idle.withFetchWord 32 0x101)) = some 0x2406
    ∧ after (fun t => (statusWord t).toNat) (step (idle.withFetchWord 32 0x109)) = some 0x1406 := by decide

/-! ### Operands -/

/-- 95_test_vectors.md 2.1. -/
theorem test_stride_table : [1, 2, 3, 4, 5, 6, 7, 8, 32767].map stride = [4, 8, 12, 12, 16, 20, 24, 24, 98304] := by decide

/-- 95_test_vectors.md 2.1: STRIDE reads 0 for WIDTH 0, -1 and 32768. -/
theorem test_stride_out_of_range : [0#32, 0xFFFFFFFF#32, 0x8000#32].map (fun w => strideReg { idle with width := w })
    = [0#32, 0#32, 0#32] := by decide

/-! ### DECODE (rule R90) -/

/-- The header of program P1: W = 3, H = 2. -/
def headerP1 : List Byte :=
  [0x42, 0x4D, 0x4E, 0, 0, 0, 0, 0, 0, 0, 0x36, 0, 0, 0, 0x28, 0, 0, 0, 3, 0, 0, 0, 2, 0, 0, 0, 1, 0, 0x18, 0,
    0, 0, 0, 0, 0x18, 0, 0, 0, 0xC4, 0x0E, 0, 0, 0xC4, 0x0E, 0, 0, 0, 0, 0, 0, 0, 0, 0, 0]

/-- The pixel data of program P1. -/
def pixelsP1 : List Byte :=
  [0x10, 0x20, 0x30, 0x40, 0x50, 0x60, 0x70, 0x80, 0x90, 0, 0, 0, 0xA0, 0xB0, 0xC0, 0xD0, 0xE0, 0xF0, 1, 2, 3, 0, 0, 0]

/-- D1: WIDTH = 3, HEIGHT = 2, OUT_LEN = 24, the pixel data copied. -/
theorem test_decode_D1 :
    result .decode (busy .decode 78 0x100 0x100 0 0 (headerP1 ++ pixelsP1)) 25
        = some (0x2, 24, pixelsP1.map BitVec.toNat ++ [0])
    ∧ after (fun t => (t.width, t.height)) (exec .decode (busy .decode 78 0x100 0x100 0 0 (headerP1 ++ pixelsP1)))
        = some (3#32, 2#32) := by decide

/-- D8 and D10: bits per pixel are checked before planes, and a height of -2 is BAD_DIMENSION 2. -/
theorem test_decode_D8_D10 :
    result .decode (busy .decode 78 0x100 0x100 0 0 ((headerP1.set 28 8).set 26 2 ++ pixelsP1)) 1 = some (0x2106, 0, [0])
    ∧ result .decode (busy .decode 78 0x100 0x100 0 0
        ((((headerP1.set 22 0xFE).set 23 0xFF).set 24 0xFF).set 25 0xFF ++ pixelsP1)) 1 = some (0x2306, 0, [0]) := by decide

/-! ### ENCODE (rule R92) -/

/-- E1 and E8: the 58 bytes of a 1 x 1 image, the padding byte AB emitted verbatim. -/
theorem test_encode_E1_E8 :
    result .encode (busy .encode 4 0x100 0x100 1 1 [1, 2, 3, 0xAB]) 58 = some (0x2, 58,
      [0x42, 0x4D, 0x3A, 0, 0, 0, 0, 0, 0, 0, 0x36, 0, 0, 0, 0x28, 0, 0, 0, 1, 0, 0, 0, 1, 0, 0, 0, 1, 0, 0x18, 0,
        0, 0, 0, 0, 4, 0, 0, 0, 0xC4, 0x0E, 0, 0, 0xC4, 0x0E, 0, 0, 0, 0, 0, 0, 0, 0, 0, 0, 1, 2, 3, 0xAB]) := by decide

/-- E4 and E7: DST_LEN = 57 is IO_FAILURE 4, HEIGHT = -1 is BAD_DIMENSION 2. -/
theorem test_encode_E4_E7 :
    result .encode (busy .encode 4 0x100 57 1 1 [1, 2, 3, 0]) 1 = some (0x4206, 0, [0])
    ∧ result .encode (busy .encode 4 0x100 0x100 1 0xFFFFFFFF [1, 2, 3, 0]) 1 = some (0x2306, 0, [0]) := by decide

/-! ### GRAY (rule R110) -/

/-- G11: the luminance, and the padding byte AB not copied. -/
theorem test_gray_G11 : result .gray (busy .gray 4 0x100 4 1 1 [0x0A, 0x14, 0x1E, 0xAB]) 4
    = some (0x2, 4, [0x15, 0x15, 0x15, 0]) := by decide

/-- G2 and G6: the exact floor. -/
theorem test_gray_G2_G6 : result .gray (busy .gray 8 0x100 8 2 1 [0, 255, 0, 24, 72, 0, 0, 0]) 8
    = some (0x2, 8, [149, 149, 149, 45, 45, 45, 0, 0]) := by decide

/-! ### HIST, LUT, REMAP, EQUALIZE (rules R120 to R123) -/

/-- H8's input: channels 1 and 2 and the padding are never counted. -/
def inputH8 : List Byte := [5, 9, 9, 6, 9, 9, 7, 9, 9, 0xEE, 0xEE, 0xEE]

/-- H8, with a destination window outside memory, which HIST ignores. -/
theorem test_hist_H8 : after (fun t => (t.histN, [5, 6, 7, 8, 9, 0xEE].map fun k => t.hist.get k))
    (exec .hist (busy .hist 12 0xFFFFFFFF 0xFFFFFFFF 3 1 inputH8)) = some (3#32, [1#32, 1#32, 1#32, 0#32, 0#32, 0#32]) := by
  decide

/-- The histogram of H5: two pixels of intensity 0, one of intensity 255. -/
def histH5 : Vector Word 256 := Vector.ofFn fun k => if k.val = 0 then 2#32 else if k.val = 255 then 1#32 else 0#32

/-- H5: 170 for k = 0 .. 254, 255 for 255. -/
theorem test_lut_H5 : after (fun t => [0, 1, 254, 255].map fun k => t.lut.get k)
    (exec .lut { busy .lut 0 0 0 0 0 [] with hist := histH5, histN := 3#32 })
      = some [170#8, 170#8, 170#8, 255#8] := by decide

/-- H6: LUT after reset is NO_HISTOGRAM. -/
theorem test_lut_H6 : result .lut (busy .lut 0 0 0 0 0 []) 0 = some (0x606, 0, []) := by decide

/-- The LUT of H4. -/
def lutH4 : Vector Byte 256 := Vector.ofFn fun k => if k.val < 10 then 0#8 else if k.val < 20 then 127#8 else 255#8

/-- H4: intensities 10 and 20 through its LUT. -/
theorem test_remap_H4 :
    result .remap { busy .remap 8 0x100 8 2 1 [10, 0, 0, 20, 0, 0, 0xEE, 0xEE] with lut := lutH4 } 8
      = some (0x2, 8, [127, 127, 127, 255, 255, 255, 0, 0]) := by decide

/-- SB12's check, for REMAP: the same window as source and destination is OVERLAP. -/
theorem test_remap_overlap : result .remap (busy .remap 8 0 8 2 1 [10]) 1 = some (0x506, 0, [10]) := by decide

/-- H8: EQUALIZE. -/
theorem test_equalize_H8 : result .equalize (busy .equalize 12 0x100 12 3 1 inputH8) 12
    = some (0x2, 12, [0x55, 0x55, 0x55, 0xAA, 0xAA, 0xAA, 0xFF, 0xFF, 0xFF, 0, 0, 0]) := by decide

/-! ### SOBEL (rule R140) -/

/-- A 3 x 3 gray image, row by row, each row padded with EE. -/
def gray3 (a b c d e f g h i : Byte) : List Byte :=
  [a, a, a, b, b, b, c, c, c, 0xEE, 0xEE, 0xEE, d, d, d, e, e, e, f, f, f, 0xEE, 0xEE, 0xEE,
    g, g, g, h, h, h, i, i, i, 0xEE, 0xEE, 0xEE]

/-- SB7: the whole output is 0 but for the three channels of pixel (1, 1). -/
theorem test_sobel_SB7 : result .sobel (busy .sobel 36 0x100 36 3 3 (gray3 0 0 0 0 0 50 0 0 1)) 36
    = some (0x2, 36, List.replicate 15 0 ++ [255, 255, 255] ++ List.replicate 18 0) := by decide

/-- SB2 and SB6: a magnitude of 100 is not above the threshold. -/
theorem test_sobel_SB2_SB6 :
    result .sobel (busy .sobel 36 0x100 36 3 3 (gray3 0 0 25 0 0 25 0 0 25)) 36 = some (0x2, 36, List.replicate 36 0)
    ∧ result .sobel (busy .sobel 36 0x100 36 3 3 (gray3 0 0 0 0 0 7 0 50 0)) 36 = some (0x2, 36, List.replicate 36 0) := by
  decide

/-! ### The host's accesses -/

/-- L4 and L5: a write to SRC_ADDR while BUSY is dropped; a write of 8 to STATUS clears DROP and keeps DONE. -/
theorem test_host_L4_L5 :
    after (fun t => ((statusWord t).toNat, t.srcAddr))
        (access { idle with phase := .busy } (opWr .srcAddr 0x1234#32)) = some (0x9, 0#32)
    ∧ after (fun t => (statusWord t).toNat) (access { idle with done := true, drop := true } (opWr .status 8#32))
        = some 0x2 := by decide

/-- L8: a write to THRESH is ignored; it reads 0x64. -/
theorem test_host_L8 : after State.hostReads (access idle (opRd .thresh)) = some [0x64#64]
    ∧ access idle (opWr .thresh 5#32) = .next idle := ⟨by decide, rfl⟩

/-- Rule R53: a wide access is little-endian. -/
theorem test_host_little_endian :
    after (fun t => (List.range 4).map t.mem.read) (access idle (.memWrite .b32 0 0x04030201#64))
        = some [1#8, 2#8, 3#8, 4#8]
    ∧ after State.hostReads (access { idle with mem := bytes [1, 2] } (.memRead .b16 0)) = some [0x0201#64] := by decide

/-! ### Witnesses: each theorem shows that the hypotheses of the statement it names can be met together, clause by clause,
at the ends of their ranges -/

/-- Windows inside memory, the source window ending where the destination window starts, or before. -/
theorem windowsOk_of {s : State} (h : s.srcAddr.toNat + s.srcLen.toNat ≤ s.dstAddr.toNat)
    (h' : s.dstAddr.toNat + s.dstLen.toNat ≤ s.memSize) : s.WindowsOk :=
  ⟨by omega, h', fun a h1 h2 => by unfold State.InSrc at h1; unfold State.InDst at h2; omega⟩

/-- The step or command gives a next state. -/
theorem exists_next {x : Host.Outcome State Fault Refusal} (h : (after (fun _ => ()) x).isSome = true) :
    ∃ t, x = .next t := by
  cases x with
  | next t => exact ⟨t, rfl⟩
  | fault r => exact absurd h (by simp [after])
  | refused r => exact absurd h (by simp [after])

/-- The smallest ready image: 1 x 1, both windows exactly long enough and adjacent. -/
def tiny (i : Instr) (out : Word) : State := busy i 4 4 out 1 1 [1, 2, 3, 0xAB]

/-- The widest row: 32767 x 1. -/
def wide (i : Instr) (out : Word) : State :=
  { busy i 98304 98304 out 32767 1 [] with params := ⟨0xFFFFFFFF#32, ⟨32766, by decide⟩, .fixed54, 0, 0⟩ }

/-- A 3 x 3 image. -/
def square (i : Instr) : State := busy i 36 36 36 3 3 (gray3 1 1 1 1 1 1 1 1 1)

/-- The stream of program P1 with its destination window exactly long enough. -/
def stream (mode : PixoffMode) : State :=
  { busy .decode 78 78 24 0 0 (headerP1 ++ pixelsP1) with params := params mode }

/-- Serves GRAY, REMAP, EQUALIZE and SOBEL with 4 bytes of output and ENCODE with 58. -/
theorem witness_tiny_ready (i : Instr) :
    (tiny i 4).ImageReady (tiny i 4).imgSize ∧ (tiny i 58).ImageReady (54 + (tiny i 58).imgSize) := by
  cases i <;> refine ⟨⟨?_, windowsOk_of (by decide) (by decide), by decide, by decide⟩,
    ⟨?_, windowsOk_of (by decide) (by decide), by decide, by decide⟩⟩ <;> unfold State.DimsOk <;> decide

theorem witness_wide_ready (i : Instr) :
    (wide i 98304).ImageReady (wide i 98304).imgSize ∧ (wide i 98358).ImageReady (54 + (wide i 98358).imgSize) := by
  cases i <;> refine ⟨⟨?_, windowsOk_of (by decide) (by decide), by decide, by decide⟩,
    ⟨?_, windowsOk_of (by decide) (by decide), by decide, by decide⟩⟩ <;> unfold State.DimsOk <;> decide

theorem witness_square_ready (i : Instr) : (square i).ImageReady (square i).imgSize := by
  cases i <;> refine ⟨?_, windowsOk_of (by decide) (by decide), by decide, by decide⟩ <;> unfold State.DimsOk <;> decide

theorem witness_stream_ready (mode : PixoffMode) : (stream mode).StreamReady ∧ (stream mode).pixelOffset = 54 := by
  cases mode <;> refine ⟨⟨windowsOk_of (by decide) (by decide), by decide, ?_, ?_, by decide, by decide⟩, by decide⟩ <;>
    first | (unfold State.HeaderOk; decide) | (unfold State.StreamDimsOk; decide)

theorem witness_DecodeInvertsEncodeOnEveryWord :
    Instr.wellFormed .sobel = true ∧ decode (encode .sobel) = .command .sobel
    ∧ ¬(1 ≤ (0x100#32).toNat % 256 ∧ (0x100#32).toNat % 256 ≤ 8)
    ∧ (1 ≤ (0x108#32).toNat % 256 ∧ (0x108#32).toNat % 256 ≤ 8) ∧ (0x108#32).toNat / 256 ≠ 0 := by decide

theorem witness_RegisterMapHasEveryRegisterOnce :
    Csr.hist 255 ≠ .reserved ∧ Csr.ofOffset 0x034#12 = .xyRes ∧ Csr.ofOffset 0x038#12 = .reserved
    ∧ Csr.ofOffset 0x3FC#12 = .reserved ∧ Csr.ofOffset 0x400#12 = .hist 0 ∧ Csr.ofOffset 0x7FC#12 = .hist 255
    ∧ Csr.ofOffset 0x800#12 = .lut 0 ∧ Csr.ofOffset 0xBFC#12 = .lut 255 ∧ Csr.ofOffset 0xC00#12 = .reserved
    ∧ Csr.ofOffset 0xFFC#12 = .reserved := by decide

theorem witness_StepRunsTheDecodedCommand :
    Instr.wellFormed .gray = true ∧ (tiny .gray 4).phase = .busy ∧ (tiny .gray 4).wait = 0
    ∧ decode (tiny .gray 4).cmd = .command .gray
    ∧ ({ tiny .gray 4 with wait := 5 } : State).host = [] ∧ ({ tiny .gray 4 with wait := 5 } : State).phase = .busy := by
  decide

theorem witness_PlacedWordRunsNext : ∀ i : Instr, i.wellFormed = true := by intro i; cases i <;> rfl

theorem witness_IllegalWordCompletesWithBadCommand :
    (idle.withCommand 9#32).phase = .busy ∧ (idle.withCommand 9#32).wait = 0
    ∧ (∀ i : Instr, (idle.withCommand 9#32).cmd ≠ encode i) ∧ ∀ i : Instr, (idle.withCommand 0x101#32).cmd ≠ encode i := by
  refine ⟨by decide, by decide, ?_, ?_⟩ <;> intro i <;> cases i <;> decide

theorem witness_HostAccessesInProgramOrder :
    idle.phase = .idle ∧ ({ idle with host := [opAck, opWait] } : State).host = opAck :: [opWait]
    ∧ (tiny .gray 4).phase = .busy ∧ ({ tiny .gray 4 with wait := 1 } : State).wait = 0 + 1
    ∧ ({ tiny .gray 4 with host := [opWait] } : State).host = opWait :: [] ∧ idle.host = [] := by decide

theorem witness_CommandWriteIssues : idle.phase = .idle ∧ (tiny .gray 4).phase = .busy := by decide

theorem witness_OperandWriteWhileIdleStores : idle.phase = .idle := by decide

theorem witness_BusyOperandWritesAreDropped :
    (tiny .gray 4).phase = .busy
    ∧ ([0x008#12, 0x020#12].all fun off => decide (off.toNat % 4 = 0 ∧ 0x008 ≤ off.toNat ∧ off.toNat ≤ 0x020)) = true
    ∧ ([0x000#12, 0x004#12].all fun off => decide (off.toNat % 4 = 0 ∧ off.toNat ≤ 0x004)) = true
    ∧ ([0x024#12, 0xFFC#12].all fun off => decide (off.toNat % 4 = 0 ∧ 0x024 ≤ off.toNat)) = true := by decide

theorem witness_ControlWriteSetsInterruptEnable : (0xFFFFFFFD#32).getLsbD 1 = false ∧ (0#32).getLsbD 1 = false := by decide

/-- A running command whose destination window runs past the end of memory. -/
def pastEnd : State := { tiny .gray 4 with dstAddr := 0xFFF0#32, dstLen := 0x20#32 }

theorem witness_SoftResetAbandonsAndResets :
    (2#32).getLsbD 1 = true ∧ (0xFFFFFFFF#32).getLsbD 1 = true ∧ idle.phase = .idle ∧ pastEnd.phase = .busy
    ∧ (0xFFF0 < pastEnd.memSize ∧ pastEnd.InDst 0xFFF0) ∧ (0xFFFF < pastEnd.memSize ∧ pastEnd.InDst 0xFFFF)
    ∧ ¬(0xFFEF < pastEnd.memSize ∧ pastEnd.InDst 0xFFEF) ∧ ¬(0x10000 < pastEnd.memSize ∧ pastEnd.InDst 0x10000) := by
  unfold State.InDst; decide

theorem witness_PlatformResetResetsEngine :
    idle.phase = .idle ∧ pastEnd.phase = .busy ∧ (0xFFFF < pastEnd.memSize ∧ pastEnd.InDst 0xFFFF)
    ∧ ¬(0xFFEF < pastEnd.memSize ∧ pastEnd.InDst 0xFFEF) ∧ ¬(0x10010 < pastEnd.memSize ∧ pastEnd.InDst 0x10010) := by
  unfold State.InDst; decide

theorem witness_StrideReadsTheDerivedValue :
    ([1#32, 32767#32].all fun w =>
      decide (1 ≤ s32 w ∧ s32 w ≤ idle.maxDim ∧ strideReg { idle with width := w } ≠ 0#32)) = true
    ∧ ([0#32, 32768#32, 0xFFFFFFFF#32].all fun w => decide (¬(1 ≤ s32 w ∧ s32 w ≤ idle.maxDim))) = true := by decide

theorem witness_ReservedOffsetsAndBitsReadZero :
    ([0x038#12, 0x3FC#12, 0xC00#12, 0xFFC#12].all fun off => decide (off.toNat % 4 = 0
      ∧ ((0x038 ≤ off.toNat ∧ off.toNat ≤ 0x3FC) ∨ 0xC00 ≤ off.toNat))) = true := by decide

theorem witness_TableReadsAreFreeOnlyWhileTablesAreWritten :
    (∀ i ∈ [Instr.hist, .lut, .equalize], (tiny i 4).phase = .busy
      ∧ ((tiny i 4).cmd = 4#32 ∨ (tiny i 4).cmd = 5#32 ∨ (tiny i 4).cmd = 7#32))
    ∧ ¬((tiny .remap 4).phase = .busy ∧ ((tiny .remap 4).cmd = 4#32 ∨ (tiny .remap 4).cmd = 5#32 ∨ (tiny .remap 4).cmd = 7#32))
    ∧ ¬(({ idle with cmd := 4#32 } : State).phase = .busy) := by decide

theorem witness_OnlyAlignedWordAccessesToTheWindow :
    ¬(Width.b32 = .b32 ∧ (0x002#12).toNat % 4 = 0) ∧ ¬(Width.b8 = .b32 ∧ (0x000#12).toNat % 4 = 0)
    ∧ (Width.b32 = .b32 ∧ (0x000#12).toNat % 4 = 0) ∧ (Width.b32 = .b32 ∧ (0xFFC#12).toNat % 4 = 0)
    ∧ (0x001#12).toNat % 4 ≠ 0 ∧ (0xFFF#12).toNat % 4 ≠ 0 := by decide

theorem witness_InterruptLevelFollowsDoneAndEnable :
    (2#32).getLsbD 1 = true ∧ (0#32).getLsbD 0 = false ∧ (2#32).getLsbD 0 = false
    ∧ ({ idle with done := true, irqEn := true } : State).irq = true := by decide

/-- A running command with the source window 0x10 .. 0x13 and the destination window 0x14 .. 0x17. -/
def racing : State := { tiny .gray 4 with srcAddr := 0x10#32, dstAddr := 0x14#32 }

theorem witness_WindowRaceIsAFault :
    racing.phase = .busy ∧ 0x18 + Width.bytes .b64 ≤ racing.memSize
    ∧ (∃ a, 0x0D ≤ a ∧ a < 0x0D + Width.bytes .b32 ∧ (racing.InSrc a ∨ racing.InDst a))
    ∧ (∃ a, 0x17 ≤ a ∧ a < 0x17 + Width.bytes .b8 ∧ (racing.InSrc a ∨ racing.InDst a))
    ∧ (∃ a, 0x11 ≤ a ∧ a < 0x11 + Width.bytes .b32 ∧ racing.InDst a)
    ∧ (∀ a, 0x18 ≤ a → a < 0x18 + Width.bytes .b64 → ¬racing.InSrc a ∧ ¬racing.InDst a)
    ∧ (∀ a, 0x0C ≤ a → a < 0x0C + Width.bytes .b32 → ¬racing.InSrc a ∧ ¬racing.InDst a)
    ∧ ∀ a, 0x10 ≤ a → a < 0x10 + Width.bytes .b32 → ¬racing.InDst a := by
  have h : racing.srcAddr.toNat = 0x10 ∧ racing.srcLen.toNat = 4 ∧ racing.dstAddr.toNat = 0x14 ∧ racing.dstLen.toNat = 4 := by
    decide
  unfold State.InSrc State.InDst
  simp only [h, Width.bytes]
  refine ⟨by decide, by decide, ⟨0x10, by omega⟩, ⟨0x17, by omega⟩, ⟨0x14, by omega⟩, ?_, ?_, ?_⟩ <;> intros <;> omega

theorem witness_HostMemoryAccessesAreLittleEndian :
    idle.phase = .idle ∧ 0 + Width.bytes .b8 ≤ idle.memSize ∧ 0xFFF8 + Width.bytes .b64 ≤ idle.memSize := by decide

theorem witness_NoByteAboveMemSize :
    idle.memSize < 0xFFF9 + Width.bytes .b64 ∧ idle.memSize < 0x10000 + Width.bytes .b8 := by decide

theorem witness_ImageCommandsReportTheFirstFailingCheck :
    (Instr.encode, 54 + (tiny .encode 58).imgSize) ∈ [(Instr.encode, 54 + (tiny .encode 58).imgSize)]
    ∧ ([0#32, 32768#32, 0x80000000#32].all fun w => decide (¬(1 ≤ s32 w ∧ s32 w ≤ idle.maxDim))) = true
    ∧ (1 ≤ s32 (tiny .gray 4).width ∧ s32 (tiny .gray 4).width ≤ idle.maxDim)
    ∧ (tiny .gray 4).DimsOk
    ∧ idle.memSize < 0xFFFD + (tiny .gray 4).srcLen.toNat ∧ 0xFFFC + (tiny .gray 4).srcLen.toNat ≤ idle.memSize
    ∧ idle.memSize < 0xFFFD + (tiny .gray 4).dstLen.toNat
    ∧ (∃ a, ({ tiny .gray 4 with dstAddr := 3#32 } : State).InSrc a ∧ ({ tiny .gray 4 with dstAddr := 3#32 } : State).InDst a)
    ∧ ({ tiny .gray 4 with srcLen := 3#32 } : State).WindowsOk ∧ 3 < (tiny .gray 4).imgSize
    ∧ (tiny .gray 3).WindowsOk ∧ (tiny .gray 3).imgSize ≤ (tiny .gray 3).srcLen.toNat
    ∧ (tiny .gray 3).dstLen.toNat < (tiny .gray 3).imgSize := by
  refine ⟨by simp, by decide, by decide, (witness_tiny_ready .gray).1.1, by decide, by decide, by decide, ⟨3, ?_⟩,
    windowsOk_of (by decide) (by decide), by decide, windowsOk_of (by decide) (by decide), by decide, by decide⟩
  unfold State.InSrc State.InDst; decide

theorem witness_HistReady :
    ({ tiny .hist 4 with dstAddr := 0#32 } : State).HistReady ∧ (wide .hist 0).HistReady := by
  refine ⟨⟨?_, by decide, by decide⟩, ⟨?_, by decide, by decide⟩⟩ <;> unfold State.DimsOk <;> decide

/-- LUT with the histogram of H5. -/
def counted : State := { busy .lut 0 0 0 0 0 [] with hist := histH5, histN := 3#32 }

theorem witness_TableCommandsReportTheFirstFailingCheck :
    (tiny .hist 4).DimsOk ∧ idle.memSize < 0xFFFD + (tiny .hist 4).srcLen.toNat
    ∧ (tiny .hist 4).srcAddr.toNat + 3 ≤ idle.memSize ∧ 3 < (tiny .hist 4).imgSize ∧ idle.histN = 0#32
    ∧ counted.histN ≠ 0#32 ∧ (idle.errCode = 0#4 ∧ counted.errCode = 0#4)
    ∧ ([0#32, 32768#32].all fun w => decide (¬(1 ≤ s32 w ∧ s32 w ≤ idle.maxDim))) = true :=
  ⟨(witness_tiny_ready .hist).1.1, by decide, by decide, by decide, by decide, by decide, by decide, by decide⟩

theorem witness_LutIsTheTruncatedCdf : counted.histN ≠ 0#32 ∧ HistogramCounted counted := by
  unfold HistogramCounted; decide

theorem witness_LutCompletesWheneverCounted : ({ counted with histN := 1#32 } : State).histN ≠ 0#32 := by decide

theorem witness_SobelWritesTheEdgeMap :
    (square .sobel).ImageReady (square .sobel).imgSize ∧ (square .sobel).Interior 1 1
    ∧ ¬(square .sobel).Interior 0 1 ∧ ¬(square .sobel).Interior 2 2 ∧ ¬(tiny .sobel 4).Interior 0 0
    ∧ (3 * (square .sobel).imgW ≤ 9 ∧ 11 < stride (square .sobel).imgW) := by
  refine ⟨witness_square_ready .sobel, ?_⟩; unfold State.Interior; decide

/-- Premise of the frames: each command gives a next state, on a state where it succeeds and on one where it fails. -/
theorem witness_CommandsWriteOnlyTheDestinationWindow (i : Instr) :
    (∃ t, exec i (tiny i 58) = .next t) ∧ (∃ t, exec i idle = .next t) ∧ ¬(tiny i 58).InDst 3 ∧ ¬(tiny i 58).InDst 62 := by
  refine ⟨?_, ?_, ?_⟩
  · cases i <;> exact exists_next (by decide)
  · cases i <;> exact exists_next (by decide)
  · unfold State.InDst; cases i <;> decide

theorem witness_CommandsReadOnlyTheSourceWindow :
    ∀ a, (tiny .gray 4).InSrc a → (bytes [1, 2, 3, 0xAB, 0x77]).read a = (tiny .gray 4).mem.read a := by
  have h : (tiny .gray 4).srcAddr.toNat + (tiny .gray 4).srcLen.toNat = 4 := by decide
  have hr : ∀ k : Fin 4, (bytes [1, 2, 3, 0xAB, 0x77]).read k.val = (tiny .gray 4).mem.read k.val := by decide
  exact fun a ha => hr ⟨a, by unfold State.InSrc at ha; omega⟩

theorem witness_OnlyTheNamedCommandsWriteResultRegisters :
    after (fun t => decide (t.width ≠ 0#32)) (exec .decode (stream .header)) = some true
    ∧ after (fun t => decide (t.hist.get 1 ≠ (tiny .hist 4).hist.get 1)) (exec .hist (tiny .hist 4)) = some true
    ∧ after (fun t => decide (t.lut.get 0 ≠ counted.lut.get 0)) (exec .lut counted) = some true := by decide

/-- A state that meets every invariant and steps: the premise of every StepKeeps statement. -/
theorem witness_Inv : Inv (tiny .equalize 4) ∧ ∃ t, step (tiny .equalize 4) = .next t := by
  refine ⟨⟨?_, ?_, ?_, ?_, ?_⟩, exists_next (by decide)⟩
  · unfold MemoryCanonical; decide
  · unfold StatusConsistent; decide
  · unfold ErrorPairListed; decide
  · unfold HistogramCounted; decide
  · intro j k _
    show ((Vector.replicate 256 0#8).get j).toNat ≤ ((Vector.replicate 256 0#8).get k).toNat
    simp [Vector.get]

/-- A completion of HIST, the two resets, and a step that is neither. -/
theorem witness_TablesChangeOnlyByTheirCommandsOrReset :
    ((tiny .hist 4).engineTurn = true ∧ ∃ t, step (tiny .hist 4) = .next t)
    ∧ (({ idle with host := [opWr .ctrl 2#32] } : State).ResetNext
      ∧ ∃ t, step { idle with host := [opWr .ctrl 2#32] } = .next t)
    ∧ (({ racing with host := [.platformReset], wait := 1 } : State).ResetNext
      ∧ ∃ t, step { racing with host := [.platformReset], wait := 1 } = .next t)
    ∧ ∃ t, step idle = .next t :=
  ⟨⟨by decide, exists_next (by decide)⟩,
    ⟨⟨by decide, _, _, rfl, .inr ⟨2#32, by decide, rfl⟩⟩, exists_next (by decide)⟩,
    ⟨⟨by decide, _, _, rfl, .inl rfl⟩, exists_next (by decide)⟩, exists_next (by decide)⟩

theorem witness_WaitEndsWithTheCompletion :
    ({ tiny .gray 4 with host := [opWait], wait := 2 } : State).phase = .busy
    ∧ ({ tiny .gray 4 with host := [opWait], wait := 2 } : State).host = opWait :: [] := by decide

/-- ENCODE of the tiny image succeeds, and its stream can be decoded to 0x100. -/
theorem witness_EncodeThenDecodeIsIdentity : ∃ t, exec .encode (tiny .encode 58) = .next t
    ∧ ({ t with srcAddr := 4#32, srcLen := 58#32, dstAddr := 0x100#32, dstLen := 4#32 } : State).WindowsOk
    ∧ 54 + (tiny .encode 58).imgSize ≤ (58#32).toNat ∧ (tiny .encode 58).imgSize ≤ (4#32).toNat :=
  ⟨_, State.complete_of_none (tiny .encode 58) (encodeChecks (tiny .encode 58)) (encodeEffect (tiny .encode 58)) (by decide),
    windowsOk_of (by decide) (by decide), by decide,
    by decide⟩

/-- DECODE of P1's stream succeeds, and the image can be encoded to 0x100. -/
theorem witness_DecodeThenEncodeKeepsAllButIgnoredFields : ∃ t, exec .decode (stream .header) = .next t
    ∧ ({ t with srcAddr := 78#32, srcLen := 24#32, dstAddr := 0x100#32, dstLen := 78#32 } : State).WindowsOk
    ∧ 54 + (stream .header).streamSize ≤ (78#32).toNat :=
  ⟨_, State.complete_of_none (stream .header) (decodeChecks (stream .header)) (decodeEffect (stream .header)) (by decide),
    windowsOk_of (by decide) (by decide), by decide⟩

/-- GRAY of the tiny image succeeds, and its output can be made gray again at 0x100. -/
theorem witness_GrayIsAMonotoneIdempotentProjection : ∃ t, exec .gray (tiny .gray 4) = .next t
    ∧ ({ t with srcAddr := 4#32, srcLen := 4#32, dstAddr := 0x100#32, dstLen := 4#32 } : State).WindowsOk
    ∧ (tiny .gray 4).imgSize ≤ (4#32).toNat ∧ (10#8 : Byte) ≤ 11#8 :=
  ⟨_, State.complete_of_none (tiny .gray 4) (imageChecks (tiny .gray 4) (tiny .gray 4).imgSize)
      ((tiny .gray 4).writeImage (tiny .gray 4).grayPixel) (by decide),
    windowsOk_of (by decide) (by decide), by decide, by decide⟩

/-- A constant histogram, a uniform one and one whose smallest intensity is 5. -/
theorem witness_EqualizationMapLaws :
    (HistogramCounted counted ∧ counted.histN ≠ 0#32 ∧ ∃ t, exec .lut counted = .next t)
    ∧ (∃ t, exec .equalize (tiny .equalize 4) = .next t)
    ∧ (∀ k : Fin 256, k ≠ 77 → (Vector.ofFn fun j : Fin 256 => if j = 77 then 9#32 else 0#32).get k = 0#32)
    ∧ (∀ k : Fin 256, (Vector.replicate 256 1#32).get k = 1#32)
    ∧ (∀ k : Fin 256, k < 5 → (Vector.ofFn fun j : Fin 256 => if j = 5 then 1#32 else 0#32).get k = 0#32)
    ∧ (Vector.ofFn fun j : Fin 256 => if j = 5 then 1#32 else 0#32).get 5 ≠ 0#32 := by
  refine ⟨⟨witness_LutIsTheTruncatedCdf.2, by decide, exists_next (by decide)⟩, exists_next (by decide), ?_, ?_, ?_, by decide⟩
  · intro k hk; rw [Vector.get_ofFn, if_neg hk]
  · intro k; simp [Vector.get]
  · intro k hk; rw [Vector.get_ofFn, if_neg (by rintro rfl; exact absurd hk (by decide))]

/-- The 3 x 3 image is uniform, SOBEL succeeds on it and on the same pixels with other padding bytes. -/
theorem witness_SobelOutputLaws : (∃ t, exec .sobel (square .sobel) = .next t)
    ∧ (∃ u, exec .sobel { square .sobel with mem := (square .sobel).mem.write 9 0x55#8 } = .next u)
    ∧ (∀ r c : Fin 3, (square .sobel).mem.read (pix 3 r.val c.val) = 1#8)
    ∧ (∀ r c ch : Fin 3, ((square .sobel).mem.write 9 0x55#8).read (pix 3 r.val c.val + ch.val)
        = (square .sobel).mem.read (pix 3 r.val c.val + ch.val))
    ∧ (square .sobel).mem.read 9 ≠ 0x55#8 :=
  ⟨exists_next (by decide), exists_next (by decide), by decide, by decide, by decide⟩

end Sys2Proof.Tests
end

section
/-! SUPPORT. Every command as one completion: its checks and its effect, and what every step leaves unchanged of the OPEN
parameters (log entry 1). -/

namespace Sys2Proof.Machine

/-! ### A command is the completion of its checks and its effect -/

/-- The checks of a command, in the order of rule R167. -/
def commandChecks (s : State) : Instr → List Check
  | .decode => decodeChecks s
  | .encode => encodeChecks s
  | .hist => histChecks s
  | .lut => lutChecks s
  | .gray | .remap | .equalize | .sobel => imageChecks s s.imgSize

/-- The effect of a command whose checks all pass (rule R161). -/
def commandEffect (s : State) : Instr → State
  | .decode => decodeEffect s
  | .encode => encodeEffect s
  | .gray => s.writeImage s.grayPixel
  | .hist => histEffect s
  | .lut => lutEffect s
  | .remap => remapEffect s
  | .equalize => equalizeEffect s
  | .sobel => s.writeImage s.sobelPixel

/-- Every command goes through the one completion (rules R161, R162). -/
theorem exec_eq_complete (i : Instr) (s : State) : exec i s = s.complete (commandChecks s i) (commandEffect s i) := by
  cases i <;> rfl

/-- Everything a command can do: its effect with success, or a failure and nothing else. -/
theorem exec_cases {i : Instr} {s t : State} (h : exec i s = .next t) :
    (firstError (commandChecks s i) = none ∧ t = (commandEffect s i).succeed)
    ∨ ∃ e, firstError (commandChecks s i) = some e ∧ t = s.fail e :=
  State.complete_cases ((exec_eq_complete i s).symm.trans h)

/-! ### The parameters under the engine's operations -/

@[simp] theorem remapEffect_params (s : State) : (remapEffect s).params = s.params := rfl

@[simp] theorem equalizeEffect_params (s : State) : (equalizeEffect s).params = s.params := by
  simp [equalizeEffect]

@[simp] theorem commandEffect_params (s : State) (i : Instr) : (commandEffect s i).params = s.params := by
  cases i <;> simp [commandEffect]

theorem exec_keeps_params {i : Instr} {s t : State} (h : exec i s = .next t) : t.params = s.params := by
  obtain ⟨_, rfl⟩ | ⟨e, _, rfl⟩ := exec_cases h <;> simp

/-- A completion, of a command or of an illegal word, keeps the parameters. -/
theorem engineStep_keeps_params {s t : State} (h : engineStep s = .next t) : t.params = s.params := by
  obtain ⟨i, _, hi⟩ | ⟨e, _, rfl⟩ := engineStep_cases h
  · exact exec_keeps_params hi
  · simp

/-! ### The parameters under the host's accesses -/

@[simp] theorem State.issue_params (s : State) (v : Word) : (s.issue v).params = s.params := rfl

@[simp] theorem State.softReset_params (s : State) : s.softReset.params = s.params := by simp [State.softReset_eq]

@[simp] theorem State.hardReset_params (s : State) : s.hardReset.params = s.params := by simp [State.hardReset_eq]

@[simp] theorem writeCtrl_params (s : State) (v : Word) : (writeCtrl s v).params = s.params := by
  obtain ⟨_, e⟩ | ⟨_, e⟩ := writeCtrl_cases s v <;> simp [e]

@[simp] theorem csrWrite_params (s : State) (r : Csr) (v : Word) : (csrWrite s r v).params = s.params := by
  obtain ⟨_, e⟩ | ⟨_, e⟩ | ⟨_, _, e⟩ | ⟨_, e⟩ | ⟨_, _, _, _, _, _, _, e⟩ | e := csrWrite_cases s r v <;> simp [e]

theorem access_keeps_params {s t : State} {op : HostOp} (h : access s op = .next t) : t.params = s.params := by
  obtain ⟨w, off, v, _, _, rfl⟩ | ⟨n, v, l, rfl, _⟩ | ⟨w, a, v, _, _, _, rfl⟩ | ⟨_, rfl⟩ := access_cases h <;> simp

/-- The host's turn keeps the parameters: taking an access off the host program does not touch them. -/
theorem hostStep_keeps_params {s t : State} (h : hostStep s = .next t) : t.params = s.params := by
  obtain ⟨_, rfl⟩ | ⟨op, rest, _, hop⟩ := hostStep_cases h
  · rfl
  · simpa using access_keeps_params hop

end Sys2Proof.Machine

open Sys2Proof Sys2Proof.Machine

/-- Settles O50: a step is a completion or the host's turn (after a tick while BUSY), and each keeps the parameters. -/
theorem stepKeepsTheParameters : Obligations.StepKeepsTheParameters := by
  intro s t h
  obtain ⟨_, e⟩ | ⟨_, _, e⟩ | ⟨_, e⟩ := step_cases s
  · exact engineStep_keeps_params (e.symm.trans h)
  · simpa using hostStep_keeps_params (e.symm.trans h)
  · exact hostStep_keeps_params (e.symm.trans h)

end

section
/-! SUPPORT. What every step can do to HIST, HIST_N and LUT, and that it keeps their invariants (rules R32, R36, R37). -/

namespace Sys2Proof.Machine

/-! ### The word of a decoded command (rules R70, R71) -/

theorem instrOfOpc_eq_some {opc : BitVec 8} {i : Instr} (h : instrOfOpc opc = some i) : opc = opcOfInstr i := by
  unfold instrOfOpc at h
  split at h
  case h_9 => cases h
  all_goals
    next hn =>
    cases h
    exact BitVec.eq_of_toNat_eq hn

theorem CmdFields.toWord_ofWord (w : Word) : (CmdFields.ofWord w).toWord = w := by
  unfold CmdFields.toWord CmdFields.ofWord
  exact (BitVec.extractLsb'_append_extractLsb'_eq_extractLsb' rfl).trans BitVec.extractLsb'_eq_self

/-- Only the encoding of a command decodes to it. -/
theorem eq_encode_of_decode {w : Word} {i : Instr} (h : decode w = .command i) : w = encode i := by
  unfold decode at h
  split at h
  · cases h
  · next j hj =>
    split at h
    · next hz =>
      cases h
      have hr : (CmdFields.ofWord w).rsv = 0#24 := by simpa [CmdFields.rsvZero] using hz
      rw [← CmdFields.toWord_ofWord w, encode, fieldsOfInstr, ← instrOfOpc_eq_some hj, ← hr]
    · cases h

/-! ### The flags and the tables under a command's effect -/

@[simp] theorem commandEffect_err (s : State) (i : Instr) : (commandEffect s i).err = s.err := by cases i <;> rfl

@[simp] theorem commandEffect_errCode (s : State) (i : Instr) : (commandEffect s i).errCode = s.errCode := by
  cases i <;> rfl

/-- Only HIST and EQUALIZE change HIST and HIST_N, and both to HIST's counts (rules R32, R123). -/
theorem commandEffect_hist (s : State) (i : Instr) :
    ((commandEffect s i).hist = s.hist ∧ (commandEffect s i).histN = s.histN)
    ∨ ((i = .hist ∨ i = .equalize)
      ∧ (commandEffect s i).hist = (histEffect s).hist ∧ (commandEffect s i).histN = (histEffect s).histN) := by
  cases i
  case hist => exact .inr ⟨.inl rfl, rfl, rfl⟩
  case equalize => exact .inr ⟨.inr rfl, rfl, rfl⟩
  all_goals exact .inl ⟨rfl, rfl⟩

/-- Only LUT and EQUALIZE change LUT: LUT from the HIST before it, EQUALIZE from its own (rules R37, R123). -/
theorem commandEffect_lut (s : State) (i : Instr) :
    (commandEffect s i).lut = s.lut
    ∨ (i = .lut ∧ (commandEffect s i).lut = (lutEffect s).lut)
    ∨ (i = .equalize ∧ (commandEffect s i).lut = (lutEffect (histEffect s)).lut) := by
  cases i
  case lut => exact .inr (.inl ⟨rfl, rfl⟩)
  case equalize => exact .inr (.inr ⟨rfl, rfl⟩)
  all_goals exact .inl rfl

/-- `t` has the HIST, HIST_N and LUT of `s`. -/
def SameTables (s t : State) : Prop := t.hist = s.hist ∧ t.histN = s.histN ∧ t.lut = s.lut

/-- HIST, HIST_N and LUT at their reset values (rule R40). -/
def ZeroTables (t : State) : Prop :=
  t.hist = Vector.replicate 256 0#32 ∧ t.histN = 0#32 ∧ t.lut = Vector.replicate 256 0#8

/-- Everything a completion can do to HIST, HIST_N and LUT: nothing, or the effect of a command whose checks pass. -/
theorem engineStep_tables {s t : State} (h : engineStep s = .next t) :
    SameTables s t
    ∨ ∃ i, s.cmd = encode i ∧ firstError (commandChecks s i) = none ∧ t = (commandEffect s i).succeed := by
  obtain ⟨i, hd, hi⟩ | ⟨e, _, rfl⟩ := engineStep_cases h
  · obtain ⟨hc, ht⟩ | ⟨e, _, rfl⟩ := exec_cases hi
    · exact .inr ⟨i, eq_encode_of_decode hd, hc, ht⟩
    · exact .inl ⟨rfl, rfl, rfl⟩
  · exact .inl ⟨rfl, rfl, rfl⟩

/-- Everything the host's turn can do to HIST, HIST_N and LUT: nothing, or a reset of all three. -/
theorem hostStep_tables {s t : State} (h : hostStep s = .next t) :
    SameTables s t
    ∨ ((∃ op rest, s.host = op :: rest
        ∧ (op = .platformReset ∨ ∃ v : Word, v.getLsbD 1 = true ∧ op = .csrWrite .b32 0x000#12 v))
      ∧ ZeroTables t) := by
  obtain ⟨_, rfl⟩ | ⟨op, rest, hh, ha⟩ := hostStep_cases h
  · exact .inl ⟨rfl, rfl, rfl⟩
  · obtain hsame | ⟨hop, hzero⟩ := access_tables ha
    · exact .inl hsame
    · exact .inr ⟨⟨op, rest, hh, hop⟩, hzero⟩

/-- Everything a step can do to HIST, HIST_N and LUT. -/
theorem step_tables {s t : State} (h : step s = .next t) :
    SameTables s t
    ∨ (s.engineTurn = true
      ∧ ∃ i, s.cmd = encode i ∧ firstError (commandChecks s i) = none ∧ t = (commandEffect s i).succeed)
    ∨ (s.ResetNext ∧ ZeroTables t) := by
  obtain ⟨ht, e⟩ | ⟨ht, _, e⟩ | ⟨hi, e⟩ := step_cases s
  · exact (engineStep_tables (e.symm.trans h)).imp_right fun hc => .inl ⟨ht, hc⟩
  · exact (hostStep_tables (e.symm.trans h)).imp_right fun ⟨hop, hz⟩ => .inr ⟨⟨ht, hop⟩, hz⟩
  · have ht : s.engineTurn = false := by simp [State.engineTurn, State.busy, hi]
    exact (hostStep_tables (e.symm.trans h)).imp_right fun ⟨hop, hz⟩ => .inr ⟨⟨ht, hop⟩, hz⟩

/-! ### HIST_N is the sum of HIST (rule R32) -/

theorem HistogramCounted.congr {s t : State} (hs : HistogramCounted s) (hh : t.hist = s.hist)
    (hn : t.histN = s.histN) : HistogramCounted t := by
  unfold HistogramCounted
  rwa [hh, hn]

theorem histogramCounted_of_zero {s : State} (hh : s.hist = Vector.replicate 256 0#32) (hn : s.histN = 0#32) :
    HistogramCounted s := by
  unfold HistogramCounted
  rw [hh, hn, Vector.toList_replicate, List.map_replicate, List.sum_replicate]
  exact ⟨rfl, Nat.zero_le _⟩

/-- Every byte of a list is counted under exactly one value. -/
theorem sum_count_eq_length (l : List Byte) : ∑ k : Fin 256, l.count (BitVec.ofNat 8 k.val) = l.length := by
  induction l with
  | nil => simp
  | cons b l ih =>
    have hb : ∀ k : Fin 256, b = BitVec.ofNat 8 k.val ↔ b.toFin = k := fun k => by
      rw [← BitVec.toNat_inj, Fin.ext_iff]; simp
    simp only [List.count_cons, Finset.sum_add_distrib, ih, beq_iff_eq, hb, Finset.sum_ite_eq, Finset.mem_univ, if_true,
      List.length_cons]

theorem length_intensities (s : State) : s.intensities.length = s.imgW * s.imgH := by
  simp [State.intensities, List.length_flatMap, Nat.mul_comm]

/-- Dimensions that pass `CHK_DIM` give at most 2^30 pixels (rules R6, R32). -/
theorem pixels_le_of_chkDim {s : State} {cs : List Check}
    (h : firstError (chkDim s.maxDim (s32 s.width) (s32 s.height) ++ cs) = none) : s.imgW * s.imgH ≤ 2 ^ 30 := by
  simp only [chkDim, List.cons_append, firstError_cons, Bool.not_eq_true', List.nil_append] at h
  split at h
  · cases h
  · next hw =>
    split at h
    · cases h
    · next hh =>
      rw [Bool.not_eq_false, dimOk_iff] at hw hh
      exact pixels_fit (m := s.maxDim) (maxDim_bounds s.params).2 (by unfold State.imgW; omega)
        (by unfold State.imgH; omega)

theorem toNat_count_intensities {s : State} (h : s.imgW * s.imgH ≤ 2 ^ 30) (b : Byte) :
    (BitVec.ofNat 32 (s.intensities.count b)).toNat = s.intensities.count b := by
  have := s.intensities.count_le_length (a := b)
  rw [length_intensities] at this
  rw [BitVec.toNat_ofNat, Nat.mod_eq_of_lt (by omega)]

/-- HIST's counts add up to HIST_N (rules R32, R120). -/
theorem histogramCounted_histEffect {s : State} (h : s.imgW * s.imgH ≤ 2 ^ 30) : HistogramCounted (histEffect s) := by
  have hn : (histEffect s).histN.toNat = s.imgW * s.imgH := by
    rw [histEffect_histN, BitVec.toNat_ofNat, Nat.mod_eq_of_lt (by omega)]
  refine ⟨?_, hn ▸ h⟩
  rw [hn, histEffect_hist, Vector.toList_ofFn, List.map_ofFn, List.sum_ofFn]
  simp only [Function.comp_apply, toNat_count_intensities h]
  rw [sum_count_eq_length, length_intensities]

/-- The checks of HIST and of EQUALIZE begin with those of the dimensions (rule R167). -/
theorem pixels_le_of_checks {s : State} {i : Instr} (hi : i = .hist ∨ i = .equalize)
    (h : firstError (commandChecks s i) = none) : s.imgW * s.imgH ≤ 2 ^ 30 := by
  obtain rfl | rfl := hi <;> exact pixels_le_of_chkDim h

/-! ### LUT is non-decreasing (rule R37) -/

theorem LutMonotone.congr {s t : State} (hs : LutMonotone s) (h : t.lut = s.lut) : LutMonotone t := by
  unfold LutMonotone
  rwa [h]

theorem lutMonotone_of_zero {s : State} (h : s.lut = Vector.replicate 256 0#8) : LutMonotone s := by
  simp [LutMonotone, h, Vector.get]

theorem cumulative_mono (hist : Vector Word 256) : Monotone (cumulative hist) := by
  intro j k hjk
  simp only [cumulative, List.map_take]
  exact List.monotone_sum_take _ (Nat.succ_le_succ hjk)

/-- No prefix of HIST counts more pixels than HIST_N (rule R121). -/
theorem cumulative_le_histN {s : State} (hs : HistogramCounted s) (k : Nat) : cumulative s.hist k ≤ s.histN.toNat := by
  rw [hs.1, cumulative, List.map_take]
  exact (List.take_sublist _ _).sum_le_sum fun _ _ => Nat.zero_le _

theorem lutEntry_le {s : State} (hs : HistogramCounted s) (k : Nat) : lutEntry s.hist s.histN.toNat k ≤ 255 :=
  Nat.div_le_of_le_mul (by rw [Nat.mul_comm _ 255]; exact Nat.mul_le_mul_left 255 (cumulative_le_histN hs k))

/-- Under rule R32's invariant the map LUT computes is non-decreasing: no entry is truncated. -/
theorem lutMonotone_lutEffect {s : State} (hs : HistogramCounted s) : LutMonotone (lutEffect s) := by
  have hfit : ∀ k, lutEntry s.hist s.histN.toNat k < 2 ^ 8 := fun k => Nat.lt_succ_of_le (lutEntry_le hs k)
  intro j k hjk
  simp only [lutEffect_lut, Vector.get_ofFn, BitVec.toNat_ofNat, Nat.mod_eq_of_lt (hfit _)]
  exact Nat.div_le_div_right (Nat.mul_le_mul_left 255 (cumulative_mono s.hist hjk))

end Sys2Proof.Machine

open Sys2Proof Sys2Proof.Machine

/-- Settles O42: a step keeps the tables, completes a command, or resets. -/
theorem tablesChangeOnlyByTheirCommandsOrReset : Obligations.TablesChangeOnlyByTheirCommandsOrReset := by
  intro s t h
  obtain ⟨hh, hn, hl⟩ | ⟨hturn, i, hcmd, _, rfl⟩ | ⟨hr, hh, hn, hl⟩ := step_tables h
  · exact ⟨.inl ⟨hh, hn⟩, .inl hl⟩
  · have herr : (commandEffect s i).succeed.err = s.err := commandEffect_err s i
    constructor
    · obtain hsame | ⟨rfl | rfl, _⟩ := commandEffect_hist s i
      · exact .inl hsame
      · exact .inr (.inl ⟨hturn, .inl hcmd, herr⟩)
      · exact .inr (.inl ⟨hturn, .inr hcmd, herr⟩)
    · obtain hsame | ⟨rfl, _⟩ | ⟨rfl, _⟩ := commandEffect_lut s i
      · exact .inl hsame
      · exact .inr (.inl ⟨hturn, .inl hcmd, herr⟩)
      · exact .inr (.inl ⟨hturn, .inr hcmd, herr⟩)
  · exact ⟨.inr (.inr ⟨hr, hh, hn⟩), .inr (.inr ⟨hr, hl⟩)⟩

/-- Settles O47: HIST and EQUALIZE count every pixel once, a reset zeroes the counts, and no other step touches them. -/
theorem stepKeepsHistogramCounted : Obligations.StepKeepsHistogramCounted := by
  intro s t hs h
  obtain ⟨hh, hn, _⟩ | ⟨_, i, _, hc, rfl⟩ | ⟨_, hh, hn, _⟩ := step_tables h
  · exact hs.congr hh hn
  · obtain ⟨hh, hn⟩ | ⟨hi, hh, hn⟩ := commandEffect_hist s i
    · exact hs.congr hh hn
    · exact (histogramCounted_histEffect (pixels_le_of_checks hi hc)).congr hh hn
  · exact histogramCounted_of_zero hh hn

/-- Settles O48: LUT and EQUALIZE compute a non-decreasing map of a counted histogram, a reset zeroes the map, and no other
step touches it. -/
theorem stepKeepsLutMonotone : Obligations.StepKeepsLutMonotone := by
  intro s t hs hm h
  obtain ⟨_, _, hl⟩ | ⟨_, i, _, hc, rfl⟩ | ⟨_, _, _, hl⟩ := step_tables h
  · exact hm.congr hl
  · obtain hl | ⟨_, hl⟩ | ⟨hi, hl⟩ := commandEffect_lut s i
    · exact hm.congr hl
    · exact (lutMonotone_lutEffect hs).congr hl
    · exact (lutMonotone_lutEffect (histogramCounted_histEffect (pixels_le_of_checks (.inr hi) hc))).congr hl
  · exact lutMonotone_of_zero hl

end

section
/-! SUPPORT. The STATUS invariants over every step, and that no command reads a flag (rules R26, R41). -/

namespace Sys2Proof.Machine

/-! ### The STATUS invariants (rule R26) -/

theorem EngineError.code_ne_zero (e : EngineError) : e.code ≠ 0#4 := by cases e <;> decide

theorem statusConsistent_fail (s : State) (e : EngineError) : StatusConsistent (s.fail e) :=
  ⟨by simp [e.code_ne_zero], by simp⟩

/-- A completion ends IDLE, with the error fields as they were or with those of an error. -/
theorem engineStep_keeps_statusConsistent {s t : State} (hs : StatusConsistent s) (h : engineStep s = .next t) :
    StatusConsistent t := by
  obtain ⟨i, _, hi⟩ | ⟨e, _, rfl⟩ := engineStep_cases h
  · obtain ⟨_, rfl⟩ | ⟨e, _, rfl⟩ := exec_cases hi
    · exact ⟨by simpa using hs.1, by simp⟩
    · exact statusConsistent_fail s e
  · exact statusConsistent_fail s _

theorem statusConsistent_of_clear {s : State} (hd : s.done = false) (he : s.err = false) (hc : s.errCode = 0#4) :
    StatusConsistent s :=
  ⟨by simp [he, hc], fun _ => ⟨hd, he, hc⟩⟩

theorem statusConsistent_softReset (s : State) : StatusConsistent s.softReset := by
  rw [State.softReset_eq]
  exact statusConsistent_of_clear rfl rfl rfl

theorem statusConsistent_hardReset (s : State) : StatusConsistent s.hardReset := by
  rw [State.hardReset_eq]
  exact statusConsistent_of_clear rfl rfl rfl

theorem csrWrite_keeps_statusConsistent {s : State} (hs : StatusConsistent s) (r : Csr) (v : Word) :
    StatusConsistent (csrWrite s r v) := by
  obtain ⟨_, e⟩ | ⟨_, e⟩ | ⟨_, _, e⟩ | ⟨_, e⟩ | ⟨_, _, _, _, _, _, _, e⟩ | e := csrWrite_cases s r v <;> rw [e]
  · obtain ⟨_, e'⟩ | ⟨_, e'⟩ := writeCtrl_cases s v <;> rw [e']
    · exact hs
    · exact statusConsistent_softReset s
  · refine ⟨hs.1, fun hb => ?_⟩
    obtain ⟨hd, he, hc⟩ := hs.2 hb
    exact ⟨by simp [hd], he, hc⟩
  · exact statusConsistent_of_clear rfl rfl rfl
  all_goals exact hs

theorem access_keeps_statusConsistent {s t : State} {op : HostOp} (hs : StatusConsistent s)
    (h : access s op = .next t) : StatusConsistent t := by
  obtain ⟨w, off, v, _, _, rfl⟩ | ⟨n, v, l, rfl, _⟩ | ⟨w, a, v, _, _, _, rfl⟩ | ⟨_, rfl⟩ := access_cases h
  · exact csrWrite_keeps_statusConsistent hs _ v
  · exact hs
  · exact hs
  · exact statusConsistent_hardReset s

theorem hostStep_keeps_statusConsistent {s t : State} (hs : StatusConsistent s) (h : hostStep s = .next t) :
    StatusConsistent t := by
  obtain ⟨_, rfl⟩ | ⟨op, rest, _, ha⟩ := hostStep_cases h
  · exact hs
  · exact access_keeps_statusConsistent (s := { s with host := rest }) hs ha

/-! ### The flags are no operands (rule R41) -/

/-- The state with other flags, error fields and interrupt enable. -/
def State.withFlags (s : State) (irqEn done err drop : Bool) (code detail : BitVec 4) : State :=
  { s with irqEn := irqEn, done := done, err := err, drop := drop, errCode := code, errDetail := detail }

section
variable (s : State) (i : Instr) (irqEn done err drop : Bool) (code detail : BitVec 4)

theorem commandChecks_withFlags :
    commandChecks (s.withFlags irqEn done err drop code detail) i = commandChecks s i := by
  cases i <;> rfl

theorem commandEffect_withFlags :
    commandEffect (s.withFlags irqEn done err drop code detail) i
      = (commandEffect s i).withFlags irqEn done err drop code detail := by
  cases i <;> rfl

end

end Sys2Proof.Machine

open Sys2Proof Sys2Proof.Machine

/-- Settles O45: a completion, a tick and every host access keep rule R26's invariants. -/
theorem stepKeepsStatusConsistent : Obligations.StepKeepsStatusConsistent := by
  intro s t hs h
  obtain ⟨_, e⟩ | ⟨_, _, e⟩ | ⟨_, e⟩ := step_cases s
  · exact engineStep_keeps_statusConsistent hs (e.symm.trans h)
  · exact hostStep_keeps_statusConsistent (s := s.tick) hs (e.symm.trans h)
  · exact hostStep_keeps_statusConsistent hs (e.symm.trans h)

/-- Settles O43: the checks do not see the flags and the effect carries them along, so both completions fail with the same
error or both succeed. -/
theorem commandsIgnoreTheFlags : Obligations.CommandsIgnoreTheFlags := by
  intro i s irqEn done err drop code detail
  change ∃ t u, exec i s = .next t ∧ exec i (s.withFlags irqEn done err drop code detail) = .next u ∧ _
  simp only [exec_eq_complete, commandChecks_withFlags, commandEffect_withFlags]
  cases hc : firstError (commandChecks s i) with
  | none =>
    exact ⟨_, _, State.complete_of_none _ _ _ hc, State.complete_of_none _ _ _ hc, rfl⟩
  | some e =>
    exact ⟨_, _, State.complete_of_some _ _ _ e hc, State.complete_of_some _ _ _ e hc, rfl⟩

end

section
/-! SUPPORT. The register window as the host sees it: the map of the offsets, what a read returns, what a write does, and
the values after reset (rules R24 to R38, R40). -/

namespace Sys2Proof.Machine

/-! ### The register map (rules R24, R35) -/

/-- CMD and the operand registers: a write to them is dropped while BUSY (rule R33). -/
def Csr.isGated : Csr → Bool
  | .cmd | .srcAddr | .srcLen | .dstAddr | .dstLen | .width | .height => true
  | _ => false

/-- The read-only registers and the reserved offsets: a write to them is ignored (rules R30 to R37). -/
def Csr.ignoresWrites : Csr → Bool
  | .stride | .outLen | .histN | .thresh | .xyRes | .hist _ | .lut _ | .reserved => true
  | _ => false

/-- Everything an aligned offset can name, in the order of the offsets. -/
theorem ofOffset_cases (off : BitVec 12) (h : off.toNat % 4 = 0) :
    (off.toNat = 0x000 ∧ Csr.ofOffset off = .ctrl)
    ∨ (off.toNat = 0x004 ∧ Csr.ofOffset off = .status)
    ∨ (0x008 ≤ off.toNat ∧ off.toNat ≤ 0x020 ∧ (Csr.ofOffset off).isGated = true)
    ∨ (0x024 ≤ off.toNat ∧ (Csr.ofOffset off).ignoresWrites = true) := by
  unfold Csr.ofOffset
  split
  case h_1 n hn => exact .inl ⟨hn, rfl⟩
  case h_2 n hn => exact .inr (.inl ⟨hn, rfl⟩)
  case h_15 =>
    simp only [imp_false] at *
    refine .inr (.inr (.inr ⟨by omega, ?_⟩))
    split
    · rfl
    · split <;> rfl
  case h_10 n hn | h_11 n hn | h_12 n hn | h_13 n hn | h_14 n hn =>
    exact .inr (.inr (.inr ⟨by omega, rfl⟩))
  all_goals
    next n hn => exact .inr (.inr (.inl ⟨by omega, by omega, rfl⟩))

theorem ofOffset_eq_reserved (off : BitVec 12) (h : off.toNat % 4 = 0) :
    Csr.ofOffset off = .reserved ↔ (0x038 ≤ off.toNat ∧ off.toNat ≤ 0x3FC) ∨ 0xC00 ≤ off.toNat := by
  have := off.isLt
  unfold Csr.ofOffset
  split
  case h_15 =>
    simp only [imp_false] at *
    split
    · simp only [reduceCtorEq, false_iff]; omega
    · split
      · simp only [reduceCtorEq, false_iff]; omega
      · simp only [true_iff]; omega
  all_goals simp only [reduceCtorEq, false_iff]; omega

theorem ofOffset_offset {r : Csr} (h : r ≠ .reserved) : Csr.ofOffset r.offset = r := by
  cases r
  case hist k => exact ofOffset_hist k
  case lut k => exact ofOffset_lut k
  case reserved => exact absurd rfl h
  all_goals rfl

theorem offset_aligned (r : Csr) : r.offset.toNat % 4 = 0 := by
  cases r
  case hist k => simp only [Csr.offset, BitVec.toNat_ofNat]; omega
  case lut k => simp only [Csr.offset, BitVec.toNat_ofNat]; omega
  all_goals rfl

/-! ### Register accesses of the one form the window takes (rule R57) -/

theorem csrFormOk_b32 {off : BitVec 12} (h : off.toNat % 4 = 0) : csrFormOk .b32 off = true := by simp [csrFormOk, h]

theorem access_csrWrite (s : State) {off : BitVec 12} (v : Word) (h : off.toNat % 4 = 0) :
    access s (.csrWrite .b32 off v) = .next (csrWrite s (Csr.ofOffset off) v) := by
  simp [access, accessCsrWrite, csrFormOk_b32 h]

/-- A read of a register that is no table entry returns its content (rules R58, R195). -/
theorem access_csrRead (s : State) {off : BitVec 12} (h : off.toNat % 4 = 0)
    (ht : (Csr.ofOffset off).isTable = false) :
    access s (.csrRead .b32 off) = .next (s.returned ((csrValue s (Csr.ofOffset off)).setWidth 64)) := by
  simp [access, accessCsrRead, csrFormOk_b32 h, csrRead, readIsFree, ht]

theorem access_writeCtrl (s : State) (v : Word) : access s (.csrWrite .b32 0x000#12 v) = .next (writeCtrl s v) := rfl

theorem access_writeStatus (s : State) (v : Word) : access s (.csrWrite .b32 0x004#12 v) = .next (writeStatus s v) :=
  rfl

theorem csrWrite_of_ignoresWrites (s : State) {r : Csr} (v : Word) (h : r.ignoresWrites = true) : csrWrite s r v = s := by
  cases r
  case stride | outLen | histN | thresh | xyRes | hist | lut | reserved => rfl
  all_goals cases h

theorem whenIdle_of_idle {s : State} (effect : State) (h : s.phase = .idle) : whenIdle s effect = effect := by
  simp [whenIdle, h]

theorem whenIdle_of_busy {s : State} (effect : State) (h : s.phase = .busy) : whenIdle s effect = s.dropWrite := by
  simp [whenIdle, h]

theorem csrWrite_of_busy {s : State} {r : Csr} (v : Word) (h : r.isGated = true) (hb : s.phase = .busy) :
    csrWrite s r v = s.dropWrite := by
  cases r
  case cmd | srcAddr | srcLen | dstAddr | dstLen | width | height => exact whenIdle_of_busy _ hb
  all_goals cases h

/-! ### CTRL, STATUS and STRIDE (rules R25, R26, R30) -/

theorem toNat_append_eq_add {m n : Nat} (x : BitVec m) (y : BitVec n) : (x ++ y).toNat = x.toNat * 2 ^ n + y.toNat := by
  rw [BitVec.toNat_append, ← Nat.shiftLeft_add_eq_or_of_lt y.isLt, Nat.shiftLeft_eq]

theorem ctrlWord_toNat (s : State) : (ctrlWord s).toNat = s.irqEn.toNat := by
  refine (toNat_append_eq_add _ _).trans ?_
  simp

/-- The fields of STATUS at their places (rule R26). -/
theorem statusWord_toNat (s : State) : (statusWord s).toNat = s.busy.toNat + 2 * s.done.toNat + 4 * s.err.toNat
    + 8 * s.drop.toNat + 2 ^ 8 * s.errCode.toNat + 2 ^ 12 * s.errDetail.toNat := by
  refine (toNat_append_eq_add _ _).trans ?_
  simp only [toNat_append_eq_add, BitVec.toNat_ofBool, BitVec.toNat_ofNat]
  omega

/-- A write to CTRL sees only bits 0 and 1 (rules R25, R35). -/
theorem writeCtrl_mask (s : State) (v : Word) : writeCtrl s (v &&& 0x00000003#32) = writeCtrl s v := by
  simp [writeCtrl]

/-- A write to STATUS sees only bits 1 and 3 (rule R26). -/
theorem writeStatus_mask (s : State) (v : Word) : writeStatus s (v &&& 0x0000FF0F#32) = writeStatus s v := by
  simp [writeStatus]

/-- STRIDE of a WIDTH in range is the stride of its signed value (rules R30, R54). -/
theorem strideReg_toNat {s : State} (h : 1 ≤ s32 s.width ∧ s32 s.width ≤ s.maxDim) :
    (strideReg s).toNat = stride s.imgW ∧ (s.imgW : Int) = s32 s.width := by
  have hm : s.maxDim ≤ 32767 := (maxDim_bounds s.params).2
  have hw : (s.imgW : Int) = s32 s.width := by unfold State.imgW; omega
  have hs := stride_bounds s.imgW
  refine ⟨?_, hw⟩
  rw [strideReg, if_pos ((dimOk_iff _ _).mpr h), BitVec.toNat_ofNat, Nat.mod_eq_of_lt (by omega)]

theorem strideReg_of_out_of_range {s : State} (h : ¬(1 ≤ s32 s.width ∧ s32 s.width ≤ s.maxDim)) :
    strideReg s = 0#32 := by
  rw [strideReg, if_neg (fun hd => h ((dimOk_iff _ _).mp hd))]

theorem strideReg_reset : strideReg State.reset = 0#32 := strideReg_of_out_of_range fun h => absurd h.1 (by decide)

end Sys2Proof.Machine

open Sys2Proof Sys2Proof.Machine

/-- Settles O10: the offset decides whether the register is CTRL or STATUS, gated by the phase, or ignores writes. -/
theorem busyOperandWritesAreDropped : Obligations.BusyOperandWritesAreDropped := by
  intro s off v ha
  rw [access_csrWrite s v ha]
  obtain ⟨ho, hr⟩ | ⟨ho, hr⟩ | ⟨hlo, hhi, hg⟩ | ⟨hlo, hi⟩ := ofOffset_cases off ha
  · refine ⟨by omega, fun _ => ⟨_, rfl, ?_⟩, by omega⟩
    rw [hr]
    obtain ⟨_, e⟩ | ⟨_, e⟩ := writeCtrl_cases s v
    · simp [csrWrite, e]
    · simp [csrWrite, e, State.softReset_eq]
  · refine ⟨by omega, fun _ => ⟨_, rfl, ?_⟩, by omega⟩
    rw [hr]
    simp +contextual [csrWrite]
  · exact ⟨fun hb _ _ => congrArg _ (csrWrite_of_busy v hg hb), by omega, by omega⟩
  · exact ⟨by omega, by omega, fun _ => congrArg _ (csrWrite_of_ignoresWrites s v hi)⟩

/-- Settles O17: in range STRIDE reads the stride of the signed WIDTH, whose bounds are those of `stride`. -/
theorem strideReadsTheDerivedValue : Obligations.StrideReadsTheDerivedValue := by
  intro s v
  refine ⟨⟨strideReg s, access_csrRead s rfl rfl, fun h => ?_, strideReg_of_out_of_range, fun h => ?_⟩, rfl,
    strideReg_reset⟩
  · obtain ⟨hx, hw⟩ := strideReg_toNat h
    rw [hx, ← hw]
    unfold stride; omega
  · obtain ⟨hx, hw⟩ := strideReg_toNat (not_not.mp fun hn => h (strideReg_of_out_of_range hn))
    have := stride_bounds s.imgW
    omega

/-- Settles O19: reserved offsets, the words' values by field, and the bits a write of CTRL or STATUS sees. -/
theorem reservedOffsetsAndBitsReadZero : Obligations.ReservedOffsetsAndBitsReadZero := by
  intro s off v ha
  have hs := statusWord_toNat s
  have hbusy := s.busy.toNat_le
  have hdone := s.done.toNat_le
  have herr := s.err.toNat_le
  have hdrop := s.drop.toNat_le
  have hcode := s.errCode.isLt
  have hdetail := s.errDetail.isLt
  refine ⟨fun hr => ?_, ?_, by omega, by omega, ?_, ?_⟩
  · have hres := (ofOffset_eq_reserved off ha).mpr hr
    rw [access_csrRead s ha (by rw [hres]; rfl), access_csrWrite s v ha, hres]
    exact ⟨rfl, rfl⟩
  · have := s.irqEn.toNat_le
    rw [ctrlWord_toNat]; omega
  · rw [access_writeCtrl, access_writeCtrl, writeCtrl_mask]
  · rw [access_writeStatus, access_writeStatus, writeStatus_mask]

/-- Settles O3: the map inverts the offsets, which are multiples of 4, and leaves exactly the two reserved ranges. -/
theorem registerMapHasEveryRegisterOnce : Obligations.RegisterMapHasEveryRegisterOnce :=
  ⟨fun r hr => ⟨ofOffset_offset hr, offset_aligned r⟩, ofOffset_eq_reserved⟩

/-- Settles O9: while IDLE the gate lets each operand write through. -/
theorem operandWriteWhileIdleStores : Obligations.OperandWriteWhileIdleStores := by
  intro s v h
  refine ⟨?_, ?_, ?_, ?_, ?_, ?_⟩
  all_goals
    rw [access_csrWrite s v rfl]
    exact congrArg _ (whenIdle_of_idle _ h)

/-- Settles O11: write-one-to-clear of DONE and DROP is their conditional clearing. -/
theorem statusWriteClearsDoneAndDrop : Obligations.StatusWriteClearsDoneAndDrop := by
  intro s v
  rw [access_writeStatus, writeStatus]
  cases v.getLsbD 1 <;> cases v.getLsbD 3 <;> simp

/-- Settles O12: without bit 1 there is no soft reset. -/
theorem controlWriteSetsInterruptEnable : Obligations.ControlWriteSetsInterruptEnable := by
  intro s v h
  obtain ⟨_, e⟩ | ⟨hv, _⟩ := writeCtrl_cases s v
  · rw [access_writeCtrl, e]
  · rw [h] at hv; cases hv

/-- Settles O15: by evaluation, but for STRIDE, which rests on the opaque MAX_DIM, and the tables, for every index. -/
theorem resetStateHoldsTheTableOfResetValues : Obligations.ResetStateHoldsTheTableOfResetValues := by
  refine ⟨rfl, rfl, rfl, rfl, rfl, rfl, rfl, rfl, rfl, rfl, strideReg_reset, rfl, rfl, rfl, rfl, ?_, ?_, rfl⟩
  · intro k; simp [State.reset, Vector.get]
  · intro k; simp [State.reset, Vector.get]

/-- Settles O16: none of these registers is a table entry, so each read returns its content. -/
theorem registerReadReturnsContent : Obligations.RegisterReadReturnsContent := by
  intro s
  refine ⟨?_, ⟨statusWord s, access_csrRead s rfl rfl, ?_⟩, ?_⟩
  · rw [← ctrlWord_toNat, BitVec.ofNat_toNat]
    exact access_csrRead s rfl rfl
  · rw [statusWord_toNat]
    cases hp : s.phase <;> simp [State.busy, hp]
  · refine ⟨?_, ?_, ?_, ?_, ?_, ?_, ?_, ?_, ?_⟩
    all_goals exact access_csrRead s rfl rfl

/-- Settles O18: neither register reads a field of the state, and both ignore writes. -/
theorem constantRegistersAreHardwired : Obligations.ConstantRegistersAreHardwired := by
  intro s v
  refine ⟨access_csrRead s rfl rfl, access_csrRead s rfl rfl, ?_, ?_⟩
  all_goals rw [access_csrWrite s v rfl, csrWrite_of_ignoresWrites s v rfl]

/-- Settles O22: clearing either factor of the level lowers it; a soft reset clears both. -/
theorem interruptLevelFollowsDoneAndEnable : Obligations.InterruptLevelFollowsDoneAndEnable := by
  refine ⟨fun s => by simp [State.irq], rfl, fun s v => ⟨fun h => ?_, fun h => ?_⟩⟩
  · exact ⟨_, access_writeStatus s v, by simp [State.irq, h]⟩
  · refine ⟨_, access_writeCtrl s v, ?_⟩
    obtain ⟨_, e⟩ | ⟨_, e⟩ := writeCtrl_cases s v
    · simp only [e, State.irq, h, Bool.and_false]
    · simp [e, State.softReset_eq, State.irq]

/-- Settles O49: nothing is listed, no error is recorded, and the tables are zero. -/
theorem resetMeetsTheInvariants : Obligations.ResetMeetsTheInvariants :=
  ⟨⟨wf_reset, rfl⟩, statusConsistent_of_clear rfl rfl rfl, (by decide : (0#4, 0#4) ∈ errorPairs),
    histogramCounted_of_zero rfl rfl, lutMonotone_of_zero rfl⟩

end

section
/-! SUPPORT. What a command reads and writes of buffer memory: every command is one fill inside its destination window,
computed from its source window; and that every step keeps memory canonical (rules R50, R60, R65). -/

namespace Sys2Proof.Machine

/-! ### What passed checks say of the windows (rules R166, R167) -/

theorem le_srcLen_of_checks {s : State} {cs : List Check} {n : Nat} (h : firstError cs = none)
    (hm : chkSrcShort s n ∈ cs) : n ≤ s.srcLen.toNat := by
  simpa [chkSrcShort] using (firstError_eq_none cs).mp h _ hm

theorem le_dstLen_of_checks {s : State} {cs : List Check} {n : Nat} (h : firstError cs = none)
    (hm : chkDstShort s n ∈ cs) : n ≤ s.dstLen.toNat := by
  simpa [chkDstShort] using (firstError_eq_none cs).mp h _ hm

theorem dst_le_memSize_of_checks {s : State} {cs : List Check} (h : firstError cs = none)
    (hm : chkDstRange s ∈ cs) : s.dstAddr.toNat + s.dstLen.toNat ≤ s.memSize := by
  simpa [chkDstRange] using (firstError_eq_none cs).mp h _ hm

/-- Checks after the first ones matter only where the first ones pass. -/
theorem firstError_append_congr {pre cs cs' : List Check} (h : firstError pre = none → cs = cs') :
    firstError (pre ++ cs) = firstError (pre ++ cs') := by
  induction pre with
  | nil => exact congrArg firstError (h rfl)
  | cons c pre ih =>
    obtain ⟨b, e⟩ := c
    cases b with
    | true => rfl
    | false => exact ih h

/-! ### A command's output -/

/-- How many bytes a command writes to its destination window (rules R31, R90, R92). -/
def outputSize (s : State) : Instr → Nat
  | .decode => s.streamSize
  | .encode => hdrLen + s.imgSize
  | .hist | .lut => 0
  | .gray | .remap | .equalize | .sobel => s.imgSize

/-- Byte `k` of what a command writes to its destination window; HIST and LUT write none (rule R65). -/
def outputByte (s : State) : Instr → Nat → Byte
  | .decode => fun k => s.mem.read (s.srcAddr.toNat + s.pixelOffset + k)
  | .encode => s.streamByte
  | .hist | .lut => fun _ => Memory.unlisted
  | .gray => imageByte s.imgW s.grayPixel
  | .remap => imageByte s.imgW s.remapPixel
  | .equalize => imageByte s.imgW (lutEffect (histEffect s)).remapPixel
  | .sobel => imageByte s.imgW s.sobelPixel

/-- Every command's effect on memory is one fill from DST_ADDR on. -/
theorem commandEffect_mem (s : State) (i : Instr) :
    (commandEffect s i).mem = s.mem.fill s.dstAddr.toNat (outputByte s i) (outputSize s i) := by
  cases i <;> rfl

/-- A command whose checks pass writes nothing, or inside a destination window that lies in memory. -/
theorem output_fits {s : State} {i : Instr} (h : firstError (commandChecks s i) = none) :
    outputSize s i = 0
    ∨ (outputSize s i ≤ s.dstLen.toNat ∧ s.dstAddr.toNat + s.dstLen.toNat ≤ s.memSize) := by
  cases i
  case hist | lut => exact .inl rfl
  all_goals
    refine .inr ⟨le_dstLen_of_checks h ?_, dst_le_memSize_of_checks h ?_⟩
    all_goals simp [commandChecks, decodeChecks, encodeChecks, imageChecks, outputSize]

/-- Every command but DECODE and LUT checks that its source window holds an image (rules R120, R167). -/
theorem chkSrcShort_mem_commandChecks (s : State) {i : Instr} (hd : i ≠ .decode) (hl : i ≠ .lut) :
    chkSrcShort s s.imgSize ∈ commandChecks s i := by
  cases i
  case decode => exact absurd rfl hd
  case lut => exact absurd rfl hl
  all_goals simp [commandChecks, encodeChecks, histChecks, imageChecks]

/-! ### A command depends only on its source window (rule R65) -/

/-- The state with another content of buffer memory. -/
def State.withMem (s : State) (m : Memory) : State := { s with mem := m }

@[simp] theorem State.withMem_params (s : State) (m : Memory) : (s.withMem m).params = s.params := rfl
@[simp] theorem State.withMem_mem (s : State) (m : Memory) : (s.withMem m).mem = m := rfl

/-- `m` holds what the memory of `s` holds in the source window of `s`. -/
def State.SameSource (s : State) (m : Memory) : Prop := ∀ a, s.InSrc a → m.read a = s.mem.read a

section
variable {s : State} {m : Memory} (hm : s.SameSource m)
include hm

theorem State.SameSource.read {o : Nat} (h : o < s.srcLen.toNat) :
    m.read (s.srcAddr.toNat + o) = s.mem.read (s.srcAddr.toNat + o) :=
  hm _ ⟨by omega, by omega⟩

theorem State.SameSource.field {off n : Nat} (h : off + n ≤ s.srcLen.toNat) :
    (s.withMem m).field off n = s.field off n := by
  refine memReadLE_congr _ _ _ _ fun k hk => ?_
  have := hm.read (o := off + k) (by omega)
  rwa [← Nat.add_assoc] at this

theorem State.SameSource.srcChannel (h : s.imgSize ≤ s.srcLen.toNat) {r c ch : Nat} (hr : r < s.imgH) (hc : c < s.imgW)
    (hch : ch < 3) : (s.withMem m).srcChannel r c ch = s.srcChannel r c ch :=
  hm.read ((pix_lt_size hr hc hch).trans_le h)

theorem State.SameSource.intensities (h : s.imgSize ≤ s.srcLen.toNat) :
    (s.withMem m).intensities = s.intensities := by
  refine List.flatMap_congr fun r hr => List.map_congr_left fun c hc => ?_
  exact hm.srcChannel h (List.mem_range.mp hr) (List.mem_range.mp hc) (by omega)

theorem State.SameSource.grayPixel (h : s.imgSize ≤ s.srcLen.toNat) {r c : Nat} (hr : r < s.imgH) (hc : c < s.imgW) :
    (s.withMem m).grayPixel r c = s.grayPixel r c := by
  simp only [State.grayPixel, hm.srcChannel h hr hc (show 0 < 3 by decide),
    hm.srcChannel h hr hc (show 1 < 3 by decide), hm.srcChannel h hr hc (show 2 < 3 by decide)]

/-- REMAP's pixel is that of the same LUT at the same source byte. -/
theorem State.SameSource.remapPixel (h : s.imgSize ≤ s.srcLen.toNat) {r c : Nat} (hr : r < s.imgH) (hc : c < s.imgW) :
    (s.withMem m).remapPixel r c = s.remapPixel r c :=
  congrArg s.lutAt (hm.srcChannel h hr hc (by omega))

end

/-- Writing the same image over another content of memory: the same registers and the same fill (rule R56). -/
theorem writeImage_withMem {s : State} (m : Memory) {p p' : Nat → Nat → Byte}
    (hp : ∀ r c, r < s.imgH → c < s.imgW → p' r c = p r c) :
    (s.withMem m).writeImage p'
      = (s.writeImage p).withMem (m.fill s.dstAddr.toNat (imageByte s.imgW p) s.imgSize) :=
  congrArg (s.writeImage p).withMem (Memory.fill_congr _ _ _ _ _ fun _ hk => imageByte_congr _ _ _ _ hp hk)

theorem dotMask_congr (mask : List Int) {w w' : Nat → Nat → Nat} (h : ∀ i j, i < 3 → j < 3 → w i j = w' i j) :
    dotMask mask w = dotMask mask w' := by
  refine congrArg List.sum (List.map_congr_left fun n hn => ?_)
  have := List.mem_range.mp hn
  rw [h (n / 3) (n % 3) (by omega) (by omega)]

/-- The edge value depends only on the nine intensities of the window (rule R140). -/
theorem edgeValue_congr {w w' : Nat → Nat → Nat} (h : ∀ i j, i < 3 → j < 3 → w i j = w' i j) :
    edgeValue w = edgeValue w' := by
  simp only [edgeValue, dotMask_congr _ h]

section
variable {s : State} {m : Memory} (hm : s.SameSource m)
include hm

/-- The window of a pixel with a full neighbourhood lies in the picture; on the border SOBEL reads nothing. -/
theorem State.SameSource.sobelPixel (h : s.imgSize ≤ s.srcLen.toNat) (r c : Nat) :
    (s.withMem m).sobelPixel r c = s.sobelPixel r c := by
  refine ite_congr rfl (fun hi => edgeValue_congr fun i j hi3 hj3 => ?_) fun _ => rfl
  obtain ⟨hr1, hr2, hc1, hc2⟩ : 1 ≤ r ∧ r + 2 ≤ s.imgH ∧ 1 ≤ c ∧ c + 2 ≤ s.imgW := hi
  exact congrArg BitVec.toNat (hm.srcChannel h (by omega) (by omega) (by omega))

theorem State.SameSource.streamByte (h : s.imgSize ≤ s.srcLen.toNat) {k : Nat} (hk : k < hdrLen + s.imgSize) :
    (s.withMem m).streamByte k = s.streamByte k :=
  ite_congr rfl (fun _ => rfl) fun hn => hm.read (by omega)

theorem State.SameSource.histEffect_eq (h : s.imgSize ≤ s.srcLen.toNat) :
    histEffect (s.withMem m) = (histEffect s).withMem m := by
  unfold histEffect
  rw [hm.intensities h]
  rfl

/-! ### DECODE reads its header inside the source window (rule R90) -/

section
variable (h : hdrLen ≤ s.srcLen.toNat)
include h

theorem State.SameSource.headerField {off n : Nat} (hf : off + n ≤ 54) : (s.withMem m).field off n = s.field off n :=
  hm.field (hf.trans h)

theorem State.SameSource.streamWidth : (s.withMem m).streamWidth = s.streamWidth :=
  congrArg (BitVec.ofNat 32) (hm.headerField h (by decide : 18 + 4 ≤ 54))

theorem State.SameSource.streamHeight : (s.withMem m).streamHeight = s.streamHeight :=
  congrArg (BitVec.ofNat 32) (hm.headerField h (by decide : 22 + 4 ≤ 54))

theorem State.SameSource.streamSize : (s.withMem m).streamSize = s.streamSize := by
  rw [State.streamSize, hm.streamWidth h, hm.streamHeight h, State.streamSize]

theorem State.SameSource.pixelOffset : (s.withMem m).pixelOffset = s.pixelOffset := by
  rw [State.pixelOffset, hm.headerField h (by decide), State.withMem_params, State.pixelOffset]

theorem State.SameSource.signatureWrong : (s.withMem m).signatureWrong = s.signatureWrong := by
  rw [State.signatureWrong, hm.headerField h (by omega), hm.headerField h (by omega), State.signatureWrong]

theorem State.SameSource.decodeChecks_tail :
    (decodeChecks (s.withMem m)).drop 4 = (decodeChecks s).drop 4 := by
  simp only [decodeChecks, hm.signatureWrong h, hm.streamWidth h, hm.streamHeight h, hm.streamSize h, hm.pixelOffset h,
    hm.headerField h (show 28 + 2 ≤ 54 by decide), hm.headerField h (show 30 + 4 ≤ 54 by decide),
    hm.headerField h (show 26 + 2 ≤ 54 by decide), hm.headerField h (show 46 + 4 ≤ 54 by decide)]
  rfl

end

/-! ### Every command's checks and effect -/

/-- DECODE's first four checks read no memory and pass only where the header lies in the source window; no other command's
check reads memory. -/
theorem State.SameSource.firstError_commandChecks (i : Instr) :
    firstError (commandChecks (s.withMem m) i) = firstError (commandChecks s i) := by
  cases i
  case decode =>
    refine firstError_append_congr (pre := (decodeChecks s).take 4) fun hpre => ?_
    exact hm.decodeChecks_tail (le_srcLen_of_checks hpre (by simp [decodeChecks]))
  all_goals rfl

theorem State.SameSource.decodeEffect_eq (h : hdrLen ≤ s.srcLen.toNat)
    (hp : s.pixelOffset + s.streamSize ≤ s.srcLen.toNat) :
    decodeEffect (s.withMem m)
      = (decodeEffect s).withMem (m.fill s.dstAddr.toNat (outputByte s .decode) s.streamSize) := by
  have hbytes : ∀ k, k < s.streamSize → m.read (s.srcAddr.toNat + s.pixelOffset + k) = outputByte s .decode k :=
    fun k hk => by
      simp only [outputByte, Nat.add_assoc]
      exact hm.read (o := s.pixelOffset + k) (by omega)
  unfold decodeEffect
  rw [hm.streamWidth h, hm.streamHeight h, hm.streamSize h, hm.pixelOffset h]
  exact congrArg (decodeEffect s).withMem (Memory.fill_congr _ _ _ _ _ hbytes)

theorem State.SameSource.encodeEffect_eq (h : s.imgSize ≤ s.srcLen.toNat) :
    encodeEffect (s.withMem m)
      = (encodeEffect s).withMem (m.fill s.dstAddr.toNat s.streamByte (hdrLen + s.imgSize)) :=
  congrArg (encodeEffect s).withMem (Memory.fill_congr _ _ _ _ _ fun _ hk => hm.streamByte h hk)

/-- A command whose checks pass has the same effect on both memories: the same registers, and the same bytes at the same
addresses. -/
theorem State.SameSource.commandEffect_eq (i : Instr) (hc : firstError (commandChecks s i) = none) :
    commandEffect (s.withMem m) i
      = (commandEffect s i).withMem (m.fill s.dstAddr.toNat (outputByte s i) (outputSize s i)) := by
  have himg : i ≠ .decode → i ≠ .lut → s.imgSize ≤ s.srcLen.toNat := fun hd hl =>
    le_srcLen_of_checks hc (chkSrcShort_mem_commandChecks s hd hl)
  cases i
  case decode =>
    exact hm.decodeEffect_eq (le_srcLen_of_checks hc (by simp [commandChecks, decodeChecks]))
      (le_srcLen_of_checks hc (by simp [commandChecks, decodeChecks]))
  case encode => exact hm.encodeEffect_eq (himg nofun nofun)
  case gray => exact writeImage_withMem m fun _ _ => hm.grayPixel (himg nofun nofun)
  case hist => exact hm.histEffect_eq (himg nofun nofun)
  case lut => rfl
  case remap => exact writeImage_withMem m fun _ _ => hm.remapPixel (himg nofun nofun)
  case equalize =>
    change remapEffect (lutEffect (histEffect (s.withMem m))) = _
    rw [hm.histEffect_eq (himg nofun nofun)]
    exact writeImage_withMem (s := lutEffect (histEffect s)) m fun _ _ =>
      State.SameSource.remapPixel (s := lutEffect (histEffect s)) hm (himg nofun nofun)
  case sobel => exact writeImage_withMem m fun r c _ _ => hm.sobelPixel (himg nofun nofun) r c

end

/-! ### Memory stays canonical (rules R50, R60) -/

theorem engineStep_keeps_memoryCanonical {s t : State} (hs : MemoryCanonical s) (h : engineStep s = .next t) :
    MemoryCanonical t := by
  obtain ⟨hwf, hin⟩ := hs
  obtain ⟨i, _, hi⟩ | ⟨e, _, rfl⟩ := engineStep_cases h
  · obtain ⟨hc, rfl⟩ | ⟨e, _, rfl⟩ := exec_cases hi
    · have hfit : outputSize s i = 0 ∨ s.dstAddr.toNat + outputSize s i ≤ s.memSize :=
        (output_fits hc).imp_right fun ⟨hlen, hwin⟩ => by omega
      unfold MemoryCanonical State.memSize
      rw [State.succeed_mem, State.succeed_params, commandEffect_mem, commandEffect_params]
      exact ⟨Memory.wf_fill _ _ _ _ hwf, Memory.within_fill _ _ _ _ _ hin hfit⟩
    · exact ⟨hwf, hin⟩
  · exact ⟨hwf, hin⟩

theorem memoryCanonical_softReset {s : State} (hs : MemoryCanonical s) : MemoryCanonical s.softReset := by
  rw [State.softReset_eq]
  exact ⟨s.abandon_mem_wf hs.1, s.abandon_mem_within hs.2⟩

theorem memoryCanonical_hardReset {s : State} (hs : MemoryCanonical s) : MemoryCanonical s.hardReset := by
  rw [State.hardReset_eq]
  exact ⟨s.abandon_mem_wf hs.1, s.abandon_mem_within hs.2⟩

/-- Only a soft reset among the register writes touches memory. -/
theorem csrWrite_keeps_memoryCanonical {s : State} (hs : MemoryCanonical s) (r : Csr) (v : Word) :
    MemoryCanonical (csrWrite s r v) := by
  obtain ⟨_, e⟩ | ⟨_, e⟩ | ⟨_, _, e⟩ | ⟨_, e⟩ | ⟨_, _, _, _, _, _, _, e⟩ | e := csrWrite_cases s r v <;> rw [e]
  · obtain ⟨_, e'⟩ | ⟨_, e'⟩ := writeCtrl_cases s v <;> rw [e']
    · exact hs
    · exact memoryCanonical_softReset hs
  all_goals exact hs

theorem access_keeps_memoryCanonical {s t : State} {op : HostOp} (hs : MemoryCanonical s)
    (h : access s op = .next t) : MemoryCanonical t := by
  obtain ⟨w, off, v, _, _, rfl⟩ | ⟨n, v, l, rfl, _⟩ | ⟨w, a, v, _, hfit, _, rfl⟩ | ⟨_, rfl⟩ := access_cases h
  · exact csrWrite_keeps_memoryCanonical hs _ v
  · exact hs
  · exact ⟨wf_memWriteLE _ _ _ _ hs.1, Memory.within_fill _ _ _ _ _ hs.2 (.inr hfit)⟩
  · exact memoryCanonical_hardReset hs

theorem hostStep_keeps_memoryCanonical {s t : State} (hs : MemoryCanonical s) (h : hostStep s = .next t) :
    MemoryCanonical t := by
  obtain ⟨_, rfl⟩ | ⟨op, rest, _, ha⟩ := hostStep_cases h
  · exact hs
  · exact access_keeps_memoryCanonical (s := { s with host := rest }) hs ha

/-! ### Host accesses to buffer memory (rules R12, R50, R53) -/

theorem Width.bytes_le (w : Width) : w.bytes ≤ 8 := by cases w <;> decide

/-- A little-endian value is the sum of its bytes at their weights (rule R12). -/
theorem memReadLE_eq_sum (m : Memory) (a n : Nat) :
    memReadLE m a n = ((List.range n).map fun k => (m.read (a + k)).toNat * 2 ^ (8 * k)).sum := by
  induction n generalizing a with
  | zero => rfl
  | succ n ih =>
    have hweight : ∀ k, (m.read (a + (k + 1))).toNat * 2 ^ (8 * (k + 1))
        = 256 * ((m.read (a + 1 + k)).toNat * 2 ^ (8 * k)) := fun k => by
      rw [show a + (k + 1) = a + 1 + k by omega]; ring
    simp [memReadLE, ih, List.range_succ_eq_map, Function.comp_def, hweight, List.sum_map_mul_left]

/-- An access of at most eight bytes fits the container its value travels in (rule R53). -/
theorem memReadLE_width_toNat (m : Memory) (a : Nat) (w : Width) :
    (BitVec.ofNat 64 (memReadLE m a w.bytes)).toNat = memReadLE m a w.bytes := by
  have hlt : memReadLE m a w.bytes < 256 ^ 8 :=
    (memReadLE_lt m a w.bytes).trans_le (Nat.pow_le_pow_right (by decide) w.bytes_le)
  rw [BitVec.toNat_ofNat, Nat.mod_eq_of_lt (hlt.trans_eq (by decide))]

theorem access_memWrite_of_idle {s : State} {w : Width} {a : Nat} (v : DWord) (hi : s.phase = .idle)
    (h : a + w.bytes ≤ s.memSize) :
    access s (.memWrite w a v) = .next { s with mem := memWriteLE s.mem a w.bytes v.toNat } := by
  simp [access, accessMemWrite, State.busy, hi, h]

theorem access_memRead_of_idle {s : State} {w : Width} {a : Nat} (hi : s.phase = .idle) (h : a + w.bytes ≤ s.memSize) :
    access s (.memRead w a) = .next (s.returned (BitVec.ofNat 64 (memReadLE s.mem a w.bytes))) := by
  simp [access, accessMemRead, State.busy, hi, h]

/-! ### Whose turn it is (rules R20, R61) -/

theorem step_of_idle {s : State} (h : s.phase = .idle) : step s = hostStep s := by simp [step, h]

/-- While BUSY, an access that comes before the completion is the host's, and counts the wait down (rule R161). -/
theorem step_of_waiting {s : State} (hb : s.phase = .busy) (hw : s.wait ≠ 0) (hh : s.host ≠ []) :
    step s = hostStep s.tick := by
  simp [step, hb, State.engineTurn, hw, hh]

theorem hostStep_cons {s : State} {op : HostOp} {rest : List HostOp} (h : s.host = op :: rest) :
    hostStep s = access { s with host := rest } op := by
  simp [hostStep, h]

theorem hostStep_nil {s : State} (h : s.host = []) : hostStep s = .next s := by simp [hostStep, h]

/-! ### The one form of a window access (rule R57) -/

theorem csrFormOk_iff (w : Width) (off : BitVec 12) : csrFormOk w off = true ↔ w = .b32 ∧ off.toNat % 4 = 0 := by
  simp [csrFormOk]

end Sys2Proof.Machine

open Sys2Proof Sys2Proof.Machine

/-- Settles O44: a completion's fill lies inside its checked window, an access inside MEM_SIZE, and a reset's free bytes
inside both. -/
theorem stepKeepsMemoryCanonical : Obligations.StepKeepsMemoryCanonical := by
  intro s t hs h
  obtain ⟨_, e⟩ | ⟨_, _, e⟩ | ⟨_, e⟩ := step_cases s
  · exact engineStep_keeps_memoryCanonical hs (e.symm.trans h)
  · exact hostStep_keeps_memoryCanonical (s := s.tick) hs (e.symm.trans h)
  · exact hostStep_keeps_memoryCanonical hs (e.symm.trans h)

/-- Settles O24: a write is a fill with the value's bytes, and a read of at most eight bytes fits its container. -/
theorem hostMemoryAccessesAreLittleEndian : Obligations.HostMemoryAccessesAreLittleEndian := by
  intro s w addr v hi hfit
  refine ⟨⟨_, access_memWrite_of_idle v hi hfit, fun k hk => ?_, fun a ha => ?_⟩,
    _, access_memRead_of_idle hi hfit, ?_⟩
  · rw [memWriteLE, Memory.read_fill_inside _ _ _ _ _ hk, leByte_toNat, pow_mul]
    rfl
  · exact Memory.read_fill_outside _ _ _ _ _ ha
  · rw [memReadLE_width_toNat, memReadLE_eq_sum]

/-- Settles O39: a failure leaves memory alone, and a success fills at most DST_LEN bytes from DST_ADDR on. -/
theorem commandsWriteOnlyTheDestinationWindow : Obligations.CommandsWriteOnlyTheDestinationWindow := by
  intro i s t h
  obtain ⟨hc, rfl⟩ | ⟨e, _, rfl⟩ := exec_cases h
  · rw [State.succeed_mem, commandEffect_mem]
    refine ⟨fun a ha => Memory.read_fill_outside _ _ _ _ _ ?_, ?_⟩
    · have := output_fits hc
      unfold State.InDst at ha
      omega
    · rintro (rfl | rfl) <;> rfl
  · exact ⟨fun _ _ => rfl, fun _ => rfl⟩

/-- Settles O40: both memories pass the same checks, and then get the same fill and the same registers. -/
theorem commandsReadOnlyTheSourceWindow : Obligations.CommandsReadOnlyTheSourceWindow := by
  intro i s m hm
  have hm : s.SameSource m := hm
  change ∃ t u, exec i s = .next t ∧ exec i (s.withMem m) = .next u ∧ u = t.withMem u.mem ∧ _
  have hfe := hm.firstError_commandChecks i
  simp only [exec_eq_complete]
  cases hc : firstError (commandChecks s i) with
  | none =>
    refine ⟨_, _, State.complete_of_none _ _ _ hc, State.complete_of_none _ _ _ (hfe.trans hc), ?_⟩
    rw [hm.commandEffect_eq i hc]
    refine ⟨rfl, fun a => ?_⟩
    simp only [State.succeed_mem, State.withMem_mem, commandEffect_mem, Memory.read_fill]
    split
    · exact .inl rfl
    · exact .inr ⟨rfl, rfl⟩
  | some e =>
    exact ⟨_, _, State.complete_of_some _ _ _ e hc, State.complete_of_some _ _ _ e (hfe.trans hc), rfl,
      fun _ => .inr ⟨rfl, rfl⟩⟩

/-- Settles O7: the phase and the wait give the host its turn, and its turn is the head of its program. -/
theorem hostAccessesInProgramOrder : Obligations.HostAccessesInProgramOrder := by
  intro s op rest
  refine ⟨fun hi hh => ?_, fun n hb hw hh => ?_, fun hi hh => ?_⟩
  · rw [step_of_idle hi, hostStep_cons hh]
  · rw [step_of_waiting hb (by omega) (by simp [hh]), hostStep_cons (s := s.tick) hh]
    simp [State.tick, hw]
  · rw [step_of_idle hi, hostStep_nil hh]

/-- Settles O21: the form test alone decides between a next state and the refusal. -/
theorem onlyAlignedWordAccessesToTheWindow : Obligations.OnlyAlignedWordAccessesToTheWindow := by
  intro s w off v mask
  simp only [access, accessCsrWrite, accessCsrRead, accessCsrPoll]
  refine ⟨fun h => ?_, fun h => ?_, fun h => ?_, fun h => ?_⟩
  · have hf : csrFormOk w off = false := Bool.eq_false_iff.mpr (mt (csrFormOk_iff w off).mp h)
    simp [hf]
  · have hf : csrFormOk w off = true := (csrFormOk_iff w off).mpr h
    simp [hf]
  · have hf : csrFormOk .b32 off = false := Bool.eq_false_iff.mpr fun hf => h ((csrFormOk_iff _ _).mp hf).2
    simp [hf]
  · simp [csrFormOk_b32 h]

/-- Settles O25: the address test comes before any test of the phase. -/
theorem noByteAboveMemSize : Obligations.NoByteAboveMemSize := by
  intro s w addr v h
  exact ⟨if_pos h, if_pos h⟩

end

section
/-! SUPPORT. The decoder on every word, the completion of an illegal word, and the registers a command's effect leaves
alone (rules R70 to R74). -/

namespace Sys2Proof.Machine

/-! ### The fields of a word (rule R70) -/

@[simp] theorem CmdFields.ofWord_opc_toNat (w : Word) : (CmdFields.ofWord w).opc.toNat = w.toNat % 256 := by
  simp [CmdFields.ofWord]

@[simp] theorem CmdFields.ofWord_rsv_toNat (w : Word) : (CmdFields.ofWord w).rsv.toNat = w.toNat / 256 := by
  have := w.isLt
  simp only [CmdFields.ofWord, BitVec.extractLsb'_toNat, Nat.shiftRight_eq_div_pow]
  omega

theorem CmdFields.rsvZero_ofWord_iff (w : Word) : (CmdFields.ofWord w).rsvZero = true ↔ w.toNat / 256 = 0 := by
  rw [CmdFields.rsvZero, decide_eq_true_eq, ← BitVec.toNat_inj, CmdFields.ofWord_rsv_toNat, BitVec.toNat_ofNat,
    Nat.zero_mod]

/-- The reserved opcodes are those outside 1 .. 8 (rule R71). -/
theorem instrOfOpc_eq_none_iff (opc : BitVec 8) : instrOfOpc opc = none ↔ ¬(1 ≤ opc.toNat ∧ opc.toNat ≤ 8) := by
  unfold instrOfOpc
  split
  case h_9 =>
    refine iff_of_true rfl ?_
    simp only [imp_false] at *
    omega
  all_goals
    next hn => simp [hn]

/-! ### Decoding every word (rules R71 to R73) -/

theorem decode_encode (i : Instr) : decode (encode i) = .command i := by cases i <;> decide

theorem decode_eq_command_iff (w : Word) (i : Instr) : decode w = .command i ↔ w = encode i := by
  refine ⟨eq_encode_of_decode, ?_⟩
  rintro rfl
  exact decode_encode i

/-- A reserved opcode is reported whatever the reserved bits hold (rule R72). -/
theorem decode_eq_reservedOpcode_iff (w : Word) :
    decode w = .illegal .reservedOpcode ↔ ¬(1 ≤ w.toNat % 256 ∧ w.toNat % 256 ≤ 8) := by
  rw [← CmdFields.ofWord_opc_toNat, ← instrOfOpc_eq_none_iff, decode]
  split
  · next hn => simp [hn]
  · next i hi => split <;> simp [hi]

/-- Reserved bits are reported only where the opcode names a command (rule R72). -/
theorem decode_eq_reservedBits_iff (w : Word) :
    decode w = .illegal .reservedBits ↔ (1 ≤ w.toNat % 256 ∧ w.toNat % 256 ≤ 8) ∧ w.toNat / 256 ≠ 0 := by
  have hopc : (1 ≤ w.toNat % 256 ∧ w.toNat % 256 ≤ 8) ↔ instrOfOpc (CmdFields.ofWord w).opc ≠ none := by
    rw [Ne, instrOfOpc_eq_none_iff, not_not, CmdFields.ofWord_opc_toNat]
  rw [hopc, ne_eq (w.toNat / 256), ← CmdFields.rsvZero_ofWord_iff, decode]
  split
  · next hn => simp [hn]
  · next i hi => split <;> next hz => simp [hi, hz]

/-! ### The completion's turn, and an illegal word at it (rules R73, R161, R162) -/

theorem step_of_turn {s : State} (hb : s.phase = .busy) (ht : s.wait = 0 ∨ s.host = []) : step s = engineStep s := by
  simp [step, hb, (engineTurn_iff s).mpr ⟨hb, ht⟩]

theorem engineStep_of_illegal {s : State} {e : DecodeError} (h : decode s.cmd = .illegal e) :
    engineStep s = .next (s.fail (decodeFailure e)) := by
  simp [engineStep, h]

/-- A failure completion leaves exactly what rule R162 lists. -/
theorem State.fail_eq_failedWith (s : State) (e : EngineError) : s.fail e = s.failedWith e.code e.detail := rfl

/-! ### What a command's effect leaves alone (rules R28, R29, R74) -/

/-- An effect changes result registers and memory only. -/
theorem commandEffect_frame (s : State) (i : Instr) :
    commandEffect s i = { s with
      outLen := (commandEffect s i).outLen, width := (commandEffect s i).width, height := (commandEffect s i).height,
      histN := (commandEffect s i).histN, hist := (commandEffect s i).hist, lut := (commandEffect s i).lut,
      mem := (commandEffect s i).mem } := by
  cases i <;> rfl

/-- Only DECODE changes WIDTH and HEIGHT (rule R29). -/
theorem commandEffect_dims (s : State) (i : Instr) :
    ((commandEffect s i).width = s.width ∧ (commandEffect s i).height = s.height) ∨ i = .decode := by
  cases i
  case decode => exact .inr rfl
  all_goals exact .inl ⟨rfl, rfl⟩

end Sys2Proof.Machine

open Sys2Proof Sys2Proof.Machine

/-- Settles O2: the three answers of the decoder, each characterised on every word. -/
theorem decodeInvertsEncodeOnEveryWord : Obligations.DecodeInvertsEncodeOnEveryWord := fun w =>
  ⟨fun i _ => decode_eq_command_iff w i, decode_eq_reservedOpcode_iff w, decode_eq_reservedBits_iff w⟩

/-- Settles O6: at its turn such a word decodes to one of the two errors, and the completion fails with it. -/
theorem illegalWordCompletesWithBadCommand : Obligations.IllegalWordCompletesWithBadCommand := by
  intro s hb ht hw
  rw [step_of_turn hb ht]
  cases hd : decode s.cmd with
  | command i => exact absurd (eq_encode_of_decode hd) (hw i)
  | illegal e =>
    rw [engineStep_of_illegal hd, State.fail_eq_failedWith]
    cases e with
    | reservedOpcode => rw [if_neg ((decode_eq_reservedOpcode_iff _).mp hd)]; rfl
    | reservedBits => rw [if_pos ((decode_eq_reservedBits_iff _).mp hd).1]; rfl

/-- Settles O41: a success leaves what its effect leaves, and a failure changes none of these registers. -/
theorem onlyTheNamedCommandsWriteResultRegisters : Obligations.OnlyTheNamedCommandsWriteResultRegisters := by
  intro i s t h
  obtain ⟨_, rfl⟩ | ⟨e, _, rfl⟩ := exec_cases h
  · have herr : (commandEffect s i).succeed.err = s.err := commandEffect_err s i
    refine ⟨by rw [commandEffect_frame s i]; rfl, fun hne => ?_, fun hne => ?_, fun hne => ?_⟩
    · obtain ⟨hw, hh⟩ | hi := commandEffect_dims s i
      · simp [hw, hh] at hne
      · exact ⟨hi, herr⟩
    · obtain ⟨hh, hn⟩ | ⟨hi, _⟩ := commandEffect_hist s i
      · simp [hh, hn] at hne
      · exact ⟨hi, herr⟩
    · obtain hl | ⟨hi, _⟩ | ⟨hi, _⟩ := commandEffect_lut s i
      · exact absurd hl hne
      · exact ⟨.inl hi, herr⟩
      · exact ⟨.inr hi, herr⟩
  · exact ⟨rfl, by simp, by simp, by simp⟩

/-- Settles O1: the eight words are the encodings, and each illegal word meets the condition of its error. -/
theorem listedCommandWordsDecode : Obligations.ListedCommandWordsDecode :=
  ⟨decode_encode .decode, decode_encode .encode, decode_encode .gray, decode_encode .hist, decode_encode .lut,
    decode_encode .remap, decode_encode .equalize, decode_encode .sobel,
    (decode_eq_reservedOpcode_iff _).mpr (by decide), (decode_eq_reservedOpcode_iff _).mpr (by decide),
    (decode_eq_reservedOpcode_iff _).mpr (by decide), (decode_eq_reservedBits_iff _).mpr (by decide),
    (decode_eq_reservedOpcode_iff _).mpr (by decide), (decode_eq_reservedBits_iff _).mpr (by decide)⟩

end

section
/-! SUPPORT. The codec: DECODE's checks as a chain of conditions, the header of a stream field by field, and the two
commands on operands that pass every check (rules R75 to R78, R90 to R93). -/

namespace Sys2Proof.Machine

/-! ### Checks that fail and checks that pass (rules R166, R167) -/

/-- The first check of a completion decides it, or leaves it to the others (rule R167). -/
theorem State.complete_cons {s t u : State} {b : Bool} {e : EngineError} {cs : List Check} {p : Prop} [Decidable p]
    (hb : b = true ↔ p) (h : s.complete cs t = .next u) :
    s.complete ((b, e) :: cs) t = .next (if p then s.fail e else u) := by
  by_cases hp : p
  · rw [if_pos hp, State.complete_of_some _ _ _ e (by simp [hb.mpr hp])]
  · have hf : b = false := Bool.eq_false_iff.mpr (mt hb.mp hp)
    rw [if_neg hp, hf]
    exact h

theorem not_dimOk_iff (m : Nat) (d : Int) : (!dimOk m d) = true ↔ ¬(1 ≤ d ∧ d ≤ m) := by
  rw [Bool.not_eq_true', ← dimOk_iff, Bool.not_eq_true]

/-- A command none of whose checks fails has its effect (rule R161). -/
theorem exec_of_checks {s : State} {i : Instr} (h : firstError (commandChecks s i) = none) :
    exec i s = .next (commandEffect s i).succeed :=
  (exec_eq_complete i s).trans (State.complete_of_none _ _ _ h)

/-- `CHK_OVERLAP` passes exactly when the windows share no byte. -/
theorem chkOverlap_eq_false_iff (s : State) : (chkOverlap s).1 = false ↔ ∀ a, s.InSrc a → ¬s.InDst a := by
  rw [← Bool.not_eq_true, chkOverlap_iff, not_exists]
  exact forall_congr' fun a => not_and

theorem exec_encode_of_ready {s : State} (h : s.ImageReady (54 + s.imgSize)) :
    exec .encode s = .next (encodeEffect s).succeed := by
  obtain ⟨⟨hw, hh⟩, ⟨hsrc, hdst, hdisj⟩, hread, hwrite⟩ := h
  exact exec_of_checks ((imageChecks_none_iff s _).mpr
    ⟨hw, hh, hsrc, hdst, (chkOverlap_eq_false_iff s).mpr hdisj, hread, hwrite⟩)

/-! ### The size of an accepted image (rules R6, R54, R92) -/

section
variable {s : State} (h : s.DimsOk)
include h

theorem State.DimsOk.size_lt : 54 + s.imgSize < 2 ^ 32 := by
  obtain ⟨⟨_, hw⟩, _, hh⟩ := h
  exact size_fits (m := s.maxDim) (maxDim_bounds s.params).2 (by unfold State.imgW; omega)
    (by unfold State.imgH; omega)

/-- The signed dimensions are the registers' own values, so the size can be read off these. -/
theorem State.DimsOk.imgSize_eq : s.imgSize = s.height.toNat * stride s.width.toNat := by
  obtain ⟨⟨hw, _⟩, hh, _⟩ := h
  rw [State.imgSize, State.imgH, State.imgW, (s32_of_pos hw).1, (s32_of_pos hh).1, Int.toNat_natCast, Int.toNat_natCast]

theorem State.DimsOk.encode_outLen : (encodeEffect s).outLen.toNat = 54 + s.imgSize :=
  (BitVec.toNat_ofNat _ _).trans (Nat.mod_eq_of_lt h.size_lt)

end

/-- DECODE leaves WIDTH and HEIGHT in range, as ENCODE needs them. -/
theorem State.StreamDimsOk.decode_dimsOk {s : State} (h : s.StreamDimsOk) : (decodeEffect s).DimsOk := h

theorem State.StreamDimsOk.decode_outLen {s : State} (h : s.StreamDimsOk) :
    (decodeEffect s).outLen.toNat = s.streamSize := by
  have hlt : 54 + s.streamSize < 2 ^ 32 := h.decode_dimsOk.size_lt
  rw [decodeEffect_outLen, BitVec.toNat_ofNat, Nat.mod_eq_of_lt (by omega)]

/-! ### The fields of a stream (rules R75, R76) -/

theorem toNat_ofNat_field (s : State) (off : Nat) : (BitVec.ofNat 32 (s.field off 4)).toNat = s.field off 4 :=
  (BitVec.toNat_ofNat _ _).trans (Nat.mod_eq_of_lt (memReadLE_lt s.mem (s.srcAddr.toNat + off) 4))

theorem streamWidth_toNat (s : State) : s.streamWidth.toNat = s.field 18 4 := toNat_ofNat_field s 18

theorem streamHeight_toNat (s : State) : s.streamHeight.toNat = s.field 22 4 := toNat_ofNat_field s 22

/-- A byte of memory has the value `b` exactly when it reads as a one-byte field of that value (rule R12). -/
theorem memReadLE_one_eq_iff (m : Memory) (a : Nat) (b : Byte) : memReadLE m a 1 = b.toNat ↔ m.read a = b := by
  change (m.read a).toNat = b.toNat ↔ _
  exact BitVec.toNat_inj

theorem signatureWrong_iff (s : State) :
    s.signatureWrong = true ↔ s.mem.read s.srcAddr.toNat ≠ 0x42#8 ∨ s.mem.read (s.srcAddr.toNat + 1) ≠ 0x4D#8 := by
  rw [State.signatureWrong, Bool.or_eq_true, decide_eq_true_eq, decide_eq_true_eq]
  exact or_congr (memReadLE_one_eq_iff s.mem s.srcAddr.toNat 0x42#8).not
    (memReadLE_one_eq_iff s.mem (s.srcAddr.toNat + 1) 0x4D#8).not

/-- `P` under either PIXOFF_MODE (rules R7, R90). -/
theorem pixelOffset_eq (s : State) : s.pixelOffset = if s.params.pixoffMode = .header then s.field 10 4 else 54 := by
  unfold State.pixelOffset
  cases s.params.pixoffMode <;> rfl

/-- Equal little-endian values are equal byte for byte (rule R12). -/
theorem memReadLE_eq_iff (m m' : Memory) (a a' n : Nat) :
    memReadLE m a n = memReadLE m' a' n ↔ ∀ k, k < n → m.read (a + k) = m'.read (a' + k) := by
  induction n generalizing a a' with
  | zero => simp [memReadLE]
  | succ n ih =>
    have hb := (m.read a).isLt
    have hb' := (m'.read a').isLt
    have hsplit : memReadLE m a (n + 1) = memReadLE m' a' (n + 1)
        ↔ m.read a = m'.read a' ∧ memReadLE m (a + 1) n = memReadLE m' (a' + 1) n := by
      rw [← BitVec.toNat_inj, memReadLE, memReadLE]
      omega
    rw [hsplit, ih, Nat.forall_lt_succ_left']
    simp only [Nat.add_zero, Nat.add_assoc, Nat.add_comm 1]

/-- Two ranges of memory hold the same field exactly when they agree at each of its offsets. -/
theorem memReadLE_field_eq_iff (m m' : Memory) (a a' off n : Nat) :
    memReadLE m (a + off) n = memReadLE m' (a' + off) n
      ↔ ∀ i, off ≤ i → i < off + n → m.read (a + i) = m'.read (a' + i) := by
  simp only [memReadLE_eq_iff, Nat.add_assoc]
  refine ⟨fun h i hlo hhi => ?_, fun h k hk => h (off + k) (by omega) (by omega)⟩
  obtain ⟨k, rfl⟩ := Nat.exists_eq_add_of_le hlo
  exact h k (by omega)

/-- A header field: its offset, its size in bytes and its value. -/
abbrev HeaderField := Nat × Nat × Nat

/-- The fields DECODE checks or takes the dimensions from, with the values a stream of `w` by `h` pixels holds there
(rules R75, R76, R78). -/
def checkedFields (w h : Word) : List HeaderField :=
  [(0, 1, 0x42), (1, 1, 0x4D), (18, 4, w.toNat), (22, 4, h.toNat), (26, 2, 1), (28, 2, 24), (30, 4, 0), (46, 4, 0)]

/-- The fields DECODE ignores when P = 54, with the values ENCODE writes for `size` bytes of pixel data (rule R93). -/
def ignoredFields (size : Nat) : List HeaderField :=
  [(2, 4, 54 + size), (6, 2, 0), (8, 2, 0), (10, 4, 54), (14, 4, 40), (34, 4, size), (38, 4, 3780), (42, 4, 3780),
    (50, 4, 0)]

/-- All the fields of the header ENCODE writes. -/
def headerFields (w h : Word) (size : Nat) : List HeaderField := checkedFields w h ++ ignoredFields size

/-- Every header byte is in a field. -/
theorem exists_headerField (w h : Word) (size : Nat) {i : Nat} (hi : i < 54) :
    ∃ f ∈ headerFields w h size, f.1 ≤ i ∧ i < f.1 + f.2.1 := by
  by_contra hnone
  simp only [headerFields, checkedFields, ignoredFields, List.cons_append, List.nil_append, not_exists, not_and,
    List.forall_mem_cons, List.not_mem_nil, false_implies, implies_true, and_true] at hnone
  omega

/-- Every field lies in the header. -/
theorem headerField_le {w h : Word} {size : Nat} : ∀ f ∈ headerFields w h size, f.1 + f.2.1 ≤ 54 := by
  simp [headerFields, checkedFields, ignoredFields]

/-- The bytes of the header are those of its fields, least significant first. -/
theorem bmpHeader_getD (w h : Word) (size : Nat) :
    ∀ f ∈ headerFields w h size, ∀ k, k < f.2.1 → (bmpHeader w h size).getD (f.1 + k) 0#8 = leByte f.2.2 k := by
  simp only [bmpHeader_eq, headerFields, checkedFields, ignoredFields, List.cons_append, List.nil_append,
    List.forall_mem_cons, List.not_mem_nil, false_implies, implies_true, and_true]
  refine ⟨?_, ?_, ?_, ?_, ?_, ?_, ?_, ?_, ?_, ?_, ?_, ?_, ?_, ?_, ?_, ?_, ?_⟩ <;> intro k hk <;> interval_cases k <;> rfl

/-- Every value fits its field. -/
theorem headerField_fits (w h : Word) {size : Nat} (hs : 54 + size < 2 ^ 32) :
    ∀ f ∈ headerFields w h size, f.2.2 < 256 ^ f.2.1 := by
  have hw := w.isLt
  have hh := h.isLt
  simp only [headerFields, checkedFields, ignoredFields, List.cons_append, List.nil_append,
    List.forall_mem_cons, List.not_mem_nil, false_implies, implies_true, and_true]
  omega

/-- ENCODE's stream holds every header field (rule R92). -/
theorem encodeEffect_field {s : State} (h : s.DimsOk) {f : HeaderField}
    (hf : f ∈ headerFields s.width s.height s.imgSize) :
    memReadLE (encodeEffect s).mem (s.dstAddr.toNat + f.1) f.2.1 = f.2.2 := by
  have hbytes : ∀ k, k < f.2.1 → (encodeEffect s).mem.read (s.dstAddr.toNat + f.1 + k) = leByte f.2.2 k := fun k hk => by
    have hin := headerField_le f hf
    rw [Nat.add_assoc, encodeEffect_read_header s _ (by unfold hdrLen; omega), bmpHeader_getD _ _ _ f hf k hk]
  rw [memReadLE_of_leByte _ _ _ _ hbytes, Nat.mod_eq_of_lt (headerField_fits _ _ h.size_lt f hf)]

/-- The header is as DECODE requires exactly when the checked fields hold their values. -/
theorem headerOk_iff (s : State) :
    s.HeaderOk ↔ ∀ f ∈ checkedFields s.streamWidth s.streamHeight, s.field f.1 f.2.1 = f.2.2 := by
  have h0 : s.field 0 1 = 0x42 ↔ s.mem.read s.srcAddr.toNat = 0x42#8 := memReadLE_one_eq_iff _ _ 0x42#8
  have h1 : s.field 1 1 = 0x4D ↔ s.mem.read (s.srcAddr.toNat + 1) = 0x4D#8 := memReadLE_one_eq_iff _ _ 0x4D#8
  simp only [checkedFields, List.forall_mem_cons, List.not_mem_nil, false_implies, implies_true, and_true, h0, h1,
    streamWidth_toNat, streamHeight_toNat, true_and]
  unfold State.HeaderOk State.field
  tauto

/-! ### DECODE on a stream that passes every check (rule R90) -/

theorem State.StreamReady.headerOk {s : State} : s.StreamReady → s.HeaderOk := fun ⟨_, _, hhead, _⟩ => hhead

theorem State.StreamReady.streamDimsOk {s : State} : s.StreamReady → s.StreamDimsOk := fun ⟨_, _, _, hdims, _⟩ => hdims

theorem exec_decode_of_ready {s : State} (h : s.StreamReady) : exec .decode s = .next (decodeEffect s).succeed := by
  obtain ⟨⟨hsrc, hdst, hdisj⟩, hlen, hhead, ⟨hw, hh⟩, hread, hwrite⟩ := h
  have hsig : s.signatureWrong = false := by
    rw [← Bool.not_eq_true, signatureWrong_iff]
    simp [hhead.1, hhead.2.1]
  obtain ⟨_, _, hbits, hcomp, hplanes, hcolors⟩ := hhead
  refine exec_of_checks ((firstError_eq_none _).mpr ?_)
  simp only [commandChecks, decodeChecks, chkDim, chkSrcRange, chkDstRange, chkSrcShort, chkDstShort, List.cons_append,
    List.nil_append, List.forall_mem_cons, List.not_mem_nil, false_implies, implies_true, and_true,
    Bool.not_eq_false', dimOk_iff, decide_eq_false_iff_not, not_lt, not_not]
  exact ⟨hsrc, hdst, (chkOverlap_eq_false_iff s).mpr hdisj, hlen, hsig, hbits, hcomp, hplanes, hcolors, hw, hh, hread,
    hwrite⟩

/-! ### One command on what the other wrote (rules R91, R93) -/

/-- The state with other windows, as the host sets them between two commands. -/
def State.withWindows (s : State) (src len dst cap : Word) : State :=
  { s with srcAddr := src, srcLen := len, dstAddr := dst, dstLen := cap }

theorem strideReg_congr {s t : State} (hp : t.params = s.params) (hw : t.width = s.width) : strideReg t = strideReg s := by
  unfold strideReg State.imgW State.maxDim
  rw [hp, hw]

/-- The state in which the host decodes what ENCODE wrote. -/
def State.afterEncode (s : State) (len addr cap : Word) : State :=
  (encodeEffect s).succeed.withWindows s.dstAddr len addr cap

/-- The state in which the host encodes what DECODE wrote. -/
def State.afterDecode (s : State) (addr cap : Word) : State :=
  (decodeEffect s).succeed.withWindows s.dstAddr s.dstLen addr cap

section
variable {s : State} (h : s.DimsOk) (len addr cap : Word)
include h

/-- DECODE finds every header field ENCODE wrote. -/
theorem afterEncode_field {f : HeaderField} (hf : f ∈ headerFields s.width s.height s.imgSize) :
    (s.afterEncode len addr cap).field f.1 f.2.1 = f.2.2 := encodeEffect_field h hf

theorem afterEncode_streamWidth : (s.afterEncode len addr cap).streamWidth = s.width := by
  apply BitVec.eq_of_toNat_eq
  rw [streamWidth_toNat]
  exact afterEncode_field h len addr cap (f := (18, 4, s.width.toNat)) (by simp [headerFields, checkedFields])

theorem afterEncode_streamHeight : (s.afterEncode len addr cap).streamHeight = s.height := by
  apply BitVec.eq_of_toNat_eq
  rw [streamHeight_toNat]
  exact afterEncode_field h len addr cap (f := (22, 4, s.height.toNat)) (by simp [headerFields, checkedFields])

theorem afterEncode_streamSize : (s.afterEncode len addr cap).streamSize = s.imgSize := by
  rw [State.streamSize, afterEncode_streamWidth h, afterEncode_streamHeight h]
  rfl

/-- ENCODE writes offset 54, so both modes read the pixel data there (rule R91). -/
theorem afterEncode_pixelOffset : (s.afterEncode len addr cap).pixelOffset = 54 := by
  rw [pixelOffset_eq, afterEncode_field h len addr cap (f := (10, 4, 54)) (by simp [headerFields, ignoredFields]),
    ite_self]

theorem afterEncode_headerOk : (s.afterEncode len addr cap).HeaderOk := by
  rw [headerOk_iff, afterEncode_streamWidth h, afterEncode_streamHeight h]
  exact fun f hf => afterEncode_field h len addr cap (List.mem_append_left _ hf)

theorem afterEncode_ready (hlen : 54 + s.imgSize ≤ len.toNat) (hcap : s.imgSize ≤ cap.toNat)
    (hwin : (s.afterEncode len addr cap).WindowsOk) : (s.afterEncode len addr cap).StreamReady := by
  refine ⟨hwin, (Nat.le_add_right _ _).trans hlen, afterEncode_headerOk h len addr cap, ?_, ?_, ?_⟩
  · unfold State.StreamDimsOk
    rw [afterEncode_streamWidth h, afterEncode_streamHeight h]
    exact h
  · rwa [afterEncode_pixelOffset h, afterEncode_streamSize h]
  · rwa [afterEncode_streamSize h]

end

/-- The pixel data goes through DECODE and ENCODE unchanged (rule R93). -/
theorem encode_afterDecode_read_pixels {s : State} (hp : s.pixelOffset = 54) (addr cap : Word) {i : Nat} (hlo : 54 ≤ i)
    (hhi : i < 54 + s.streamSize) :
    (encodeEffect (s.afterDecode addr cap)).mem.read (addr.toNat + i) = s.mem.read (s.srcAddr.toNat + i) := by
  obtain ⟨k, rfl⟩ := Nat.exists_eq_add_of_le hlo
  have hk : k < s.streamSize := by omega
  rw [← Nat.add_assoc, ← Nat.add_assoc]
  calc (encodeEffect (s.afterDecode addr cap)).mem.read (addr.toNat + 54 + k)
      = (decodeEffect s).mem.read (s.dstAddr.toNat + k) := encodeEffect_read_pixels (s.afterDecode addr cap) k hk
    _ = s.mem.read (s.srcAddr.toNat + 54 + k) := by rw [decodeEffect_read s k hk, hp]

section
variable {s : State} (h : s.StreamReady) (addr cap : Word)
include h

theorem afterDecode_ready (hcap : 54 + s.streamSize ≤ cap.toNat) (hwin : (s.afterDecode addr cap).WindowsOk) :
    (s.afterDecode addr cap).ImageReady (54 + (s.afterDecode addr cap).imgSize) := by
  obtain ⟨_, _, _, hdims, _, hwrite⟩ := h
  exact ⟨hdims.decode_dimsOk, hwin, hwrite, hcap⟩

section
variable {f : HeaderField} (hf : f ∈ headerFields s.streamWidth s.streamHeight s.streamSize)
include hf

/-- ENCODE writes its values to all fields of the header. -/
theorem encode_afterDecode_field :
    memReadLE (encodeEffect (s.afterDecode addr cap)).mem (addr.toNat + f.1) f.2.1 = f.2.2 :=
  encodeEffect_field (s := s.afterDecode addr cap) h.streamDimsOk.decode_dimsOk hf

/-- A field's bytes come back exactly when the stream's field holds the value ENCODE writes. -/
theorem encode_afterDecode_read_field_iff :
    (∀ i, f.1 ≤ i → i < f.1 + f.2.1 →
        (encodeEffect (s.afterDecode addr cap)).mem.read (addr.toNat + i) = s.mem.read (s.srcAddr.toNat + i))
      ↔ memReadLE s.mem (s.srcAddr.toNat + f.1) f.2.1 = f.2.2 := by
  rw [← memReadLE_field_eq_iff, encode_afterDecode_field h addr cap hf]
  exact eq_comm

end

/-- Every byte outside the ignored fields comes back: the checked fields hold ENCODE's values already. -/
theorem encode_afterDecode_read (hp : s.pixelOffset = 54) {i : Nat} (hi : i < 54 + s.streamSize)
    (hout : ∀ f ∈ ignoredFields s.streamSize, ¬(f.1 ≤ i ∧ i < f.1 + f.2.1)) :
    (encodeEffect (s.afterDecode addr cap)).mem.read (addr.toNat + i) = s.mem.read (s.srcAddr.toNat + i) := by
  by_cases hhead : i < 54
  · obtain ⟨f, hf, hlo, hhi⟩ := exists_headerField s.streamWidth s.streamHeight s.streamSize hhead
    obtain hchecked | hignored := List.mem_append.mp hf
    · have hval : memReadLE s.mem (s.srcAddr.toNat + f.1) f.2.1 = f.2.2 := (headerOk_iff s).mp h.headerOk f hchecked
      exact (encode_afterDecode_read_field_iff h addr cap hf).mpr hval i hlo hhi
    · exact absurd ⟨hlo, hhi⟩ (hout f hignored)
  · exact encode_afterDecode_read_pixels hp addr cap (by omega) hi

end

end Sys2Proof.Machine

open Sys2Proof Sys2Proof.Machine

/-- Settles O28: each check of DECODE's list is one condition of the chain. -/
theorem decodeReportsTheFirstFailingCheck : Obligations.DecodeReportsTheFirstFailingCheck := by
  intro s
  have hoverlap : (chkOverlap s).1 = true ↔ 0 < s.srcLen.toNat ∧ 0 < s.dstLen.toNat
      ∧ s.srcAddr.toNat < s.dstAddr.toNat + s.dstLen.toNat ∧ s.dstAddr.toNat < s.srcAddr.toNat + s.srcLen.toNat := by
    simp only [chkOverlap, Bool.and_eq_true, decide_eq_true_eq, and_assoc]
  have hpast : decide (s.srcLen.toNat < s.pixelOffset + s.streamSize) = true ↔ s.srcLen.toNat
      < (if s.params.pixoffMode = .header then s.field 10 4 else 54) + s.streamSize := by
    rw [← pixelOffset_eq, decide_eq_true_iff]
  exact State.complete_cons decide_eq_true_iff <|
    State.complete_cons decide_eq_true_iff <|
    State.complete_cons hoverlap <|
    State.complete_cons decide_eq_true_iff <|
    State.complete_cons (signatureWrong_iff s) <|
    State.complete_cons decide_eq_true_iff <|
    State.complete_cons decide_eq_true_iff <|
    State.complete_cons decide_eq_true_iff <|
    State.complete_cons decide_eq_true_iff <|
    State.complete_cons (not_dimOk_iff _ _) <|
    State.complete_cons (not_dimOk_iff _ _) <|
    State.complete_cons hpast <|
    State.complete_cons decide_eq_true_iff rfl

/-- Settles O30: on a ready stream DECODE is its effect, whose size is that of the header's own width and height. -/
theorem decodeCopiesThePixelData : Obligations.DecodeCopiesThePixelData := by
  intro s hready
  have hdims := hready.streamDimsOk
  have hout : (decodeEffect s).succeed.outLen.toNat = s.streamSize := hdims.decode_outLen
  refine ⟨_, exec_decode_of_ready hready, rfl, streamWidth_toNat s, streamHeight_toNat s, ?_⟩
  rw [hout]
  refine ⟨hdims.decode_dimsOk.imgSize_eq, fun i hi => ?_, decodeEffect_read_outside s⟩
  refine (decodeEffect_read s i hi).trans ?_
  rw [pixelOffset_eq]
  rfl

/-- Settles O31: on ready operands ENCODE is its effect, and the listed values are those of the header's fields. -/
theorem encodeWritesTheStream : Obligations.EncodeWritesTheStream := by
  intro s hready
  have hdims : s.DimsOk := hready.1
  have hfield : ∀ f ∈ headerFields s.width s.height s.imgSize,
      memReadLE (encodeEffect s).mem (s.dstAddr.toNat + f.1) f.2.1 = f.2.2 := fun f => encodeEffect_field hdims
  refine ⟨_, exec_encode_of_ready hready, rfl, hdims.encode_outLen,
    (memReadLE_one_eq_iff _ _ 0x42#8).mp (hfield (0, 1, 0x42) (by simp [headerFields, checkedFields])),
    (memReadLE_one_eq_iff _ _ 0x4D#8).mp (hfield (1, 1, 0x4D) (by simp [headerFields, checkedFields])),
    fun off n value hlisted => hfield (off, n, value) ?_, encodeEffect_read_pixels s, encodeEffect_read_outside s⟩
  revert hlisted
  generalize (off, n, value) = f
  revert f
  simp [headerFields, checkedFields, ignoredFields]

/-- Settles O52: the stream ENCODE wrote is ready for DECODE with the image's own dimensions and P = 54. -/
theorem encodeThenDecodeIsIdentity : Obligations.EncodeThenDecodeIsIdentity := by
  intro s len addr cap hready t ht d hd hlen hcap hwin
  obtain rfl : (encodeEffect s).succeed = t := by simpa [exec_encode_of_ready hready] using ht
  obtain rfl : d = s.afterEncode len addr cap := hd
  obtain ⟨hdims, _⟩ := hready
  have hstream := afterEncode_ready hdims len addr cap hlen hcap hwin
  have hsize := afterEncode_streamSize hdims len addr cap
  have hwidth := afterEncode_streamWidth hdims len addr cap
  refine ⟨_, exec_decode_of_ready hstream, rfl, hwidth, afterEncode_streamHeight hdims len addr cap,
    strideReg_congr rfl hwidth, hstream.streamDimsOk.decode_outLen.trans hsize, fun i hi => ?_⟩
  calc (decodeEffect (s.afterEncode len addr cap)).mem.read (addr.toNat + i)
      = (s.afterEncode len addr cap).mem.read
          (s.dstAddr.toNat + (s.afterEncode len addr cap).pixelOffset + i) := decodeEffect_read _ i (hi.trans_eq hsize.symm)
    _ = (encodeEffect s).mem.read (s.dstAddr.toNat + hdrLen + i) := by rw [afterEncode_pixelOffset hdims]; rfl
    _ = s.mem.read (s.srcAddr.toNat + i) := encodeEffect_read_pixels s i hi

/-- Settles O53: ENCODE writes every field of the header, and the fields DECODE checks held its values before. -/
theorem decodeThenEncodeKeepsAllButIgnoredFields : Obligations.DecodeThenEncodeKeepsAllButIgnoredFields := by
  intro s addr cap hready hp t ht e he hcap hwin ignored hignored
  obtain rfl : (decodeEffect s).succeed = t := by simpa [exec_decode_of_ready hready] using ht
  obtain rfl : e = s.afterDecode addr cap := he
  obtain rfl : ignored = ignoredFields s.streamSize := hignored
  have hmem : ∀ f ∈ ignoredFields s.streamSize, f ∈ headerFields s.streamWidth s.streamHeight s.streamSize :=
    fun f => List.mem_append_right _
  refine ⟨_, exec_encode_of_ready (afterDecode_ready hready addr cap hcap hwin), rfl, fun i hi hout => ?_,
    fun off n value hf => encode_afterDecode_field hready addr cap (hmem _ hf), fun hall off n value hf => ?_,
    fun hval i hi => ?_⟩
  · exact encode_afterDecode_read hready addr cap hp hi fun f => hout f.1 f.2.1 f.2.2
  · have hle : off + n ≤ 54 := headerField_le _ (hmem _ hf)
    exact (encode_afterDecode_read_field_iff hready addr cap (hmem _ hf)).mp fun i _ hhi =>
      hall i (hhi.trans_le (hle.trans (Nat.le_add_right _ _)))
  · by_cases hin : ∃ f ∈ ignoredFields s.streamSize, f.1 ≤ i ∧ i < f.1 + f.2.1
    · obtain ⟨f, hf, hlo, hhi⟩ := hin
      exact (encode_afterDecode_read_field_iff hready addr cap (hmem f hf)).mpr (hval _ _ _ hf) i hlo hhi
    · exact encode_afterDecode_read hready addr cap hp hi fun f hf hfi => hin ⟨f, hf, hfi⟩

end

section
/-! SUPPORT. The commands that write a new image of the current dimensions, and GRAY among them: the luminance and its
laws, and GRAY of a GRAY output (rules R31, R56, R110, R111). -/

namespace Sys2Proof.Machine

/-! ### Writing a new image (rules R31, R54, R56) -/

/-- Ready operands pass every check of an image command (rules R166, R167). -/
theorem State.ImageReady.firstError_imageChecks {s : State} {out : Nat} (h : s.ImageReady out) :
    firstError (imageChecks s out) = none := by
  obtain ⟨⟨hw, hh⟩, ⟨hsrc, hdst, hdisj⟩, hread, hwrite⟩ := h
  exact (imageChecks_none_iff s out).mpr
    ⟨hw, hh, hsrc, hdst, (chkOverlap_eq_false_iff s).mpr hdisj, hread, hwrite⟩

theorem State.DimsOk.writeImage_outLen {s : State} (h : s.DimsOk) (p : Nat → Nat → Byte) :
    (s.writeImage p).outLen.toNat = s.imgSize := by
  have hlt := h.size_lt
  rw [State.writeImage_outLen, BitVec.toNat_ofNat, Nat.mod_eq_of_lt (by omega)]

/-- Byte `i` of the new image in the destination window. -/
theorem writeImage_read (s : State) (p : Nat → Nat → Byte) {i : Nat} (h : i < s.imgSize) :
    (s.writeImage p).mem.read (s.dstAddr.toNat + i) = imageByte s.imgW p i := by
  rw [State.writeImage_mem, Memory.read_fill_inside _ _ _ _ _ h]

/-- The effect of an image command leaves the image of its pixels. -/
theorem State.DimsOk.writesImage {s : State} (h : s.DimsOk) (p : Nat → Nat → Byte) :
    WritesImage s (s.writeImage p).succeed fun r c => (p r c).toNat :=
  ⟨h.writeImage_outLen p, fun _ _ _ hr hc hch => congrArg BitVec.toNat (writeImage_read_pix s p hr hc hch),
    fun _ _ hr => writeImage_read_padding s p hr, fun _ => writeImage_read_outside s p⟩

/-- The state in which the host runs a command on the image just written, with other windows. -/
def State.afterImage (s : State) (p : Nat → Nat → Byte) (len addr cap : Word) : State :=
  (s.writeImage p).succeed.withWindows s.dstAddr len addr cap

/-- The image just written is read back channel by channel. -/
theorem afterImage_srcChannel (s : State) (p : Nat → Nat → Byte) (len addr cap : Word) {r c ch : Nat} (hr : r < s.imgH)
    (hc : c < s.imgW) (hch : ch < 3) : (s.afterImage p len addr cap).srcChannel r c ch = p r c :=
  writeImage_read_pix s p hr hc hch

theorem State.DimsOk.afterImage_ready {s : State} (h : s.DimsOk) (p : Nat → Nat → Byte) {len addr cap : Word}
    (hlen : s.imgSize ≤ len.toNat) (hcap : s.imgSize ≤ cap.toNat) (hwin : (s.afterImage p len addr cap).WindowsOk) :
    (s.afterImage p len addr cap).ImageReady (s.afterImage p len addr cap).imgSize :=
  ⟨h, hwin, hlen, hcap⟩

/-! ### The luminance (rules R110, R111) -/

/-- The weights add up to 1000, so the luminance fits a byte. -/
theorem luminance_lt (b g r : Byte) : luminance b g r < 2 ^ 8 := by
  unfold luminance
  omega

/-- The weights add up to 1000, so a gray pixel is its own luminance. -/
theorem luminance_self (b : Byte) : luminance b b b = b.toNat := by
  unfold luminance
  omega

theorem luminance_mono {b g r b' g' r' : Byte} (hb : b ≤ b') (hg : g ≤ g') (hr : r ≤ r') :
    luminance b g r ≤ luminance b' g' r' := by
  rw [BitVec.le_def] at hb hg hr
  refine Nat.div_le_div_right ?_
  omega

/-! ### GRAY (rules R110, R111) -/

theorem exec_gray_of_ready {s : State} (h : s.ImageReady s.imgSize) :
    exec .gray s = .next (s.writeImage s.grayPixel).succeed :=
  exec_of_checks (i := .gray) h.firstError_imageChecks

/-- GRAY's pixel is the exact luminance: no value is truncated. -/
theorem grayPixel_toNat (s : State) (r c : Nat) :
    (s.grayPixel r c).toNat = luminance (s.srcChannel r c 0) (s.srcChannel r c 1) (s.srcChannel r c 2) :=
  (BitVec.toNat_ofNat _ _).trans (Nat.mod_eq_of_lt (luminance_lt _ _ _))

/-- GRAY of an image with equal channels gives the same pixels. -/
theorem afterImage_grayPixel (s : State) (p : Nat → Nat → Byte) (len addr cap : Word) {r c : Nat} (hr : r < s.imgH)
    (hc : c < s.imgW) : (s.afterImage p len addr cap).grayPixel r c = p r c := by
  have hch : ∀ ch, ch < 3 → (s.afterImage p len addr cap).srcChannel r c ch = p r c := fun _ =>
    afterImage_srcChannel s p len addr cap hr hc
  apply BitVec.eq_of_toNat_eq
  rw [grayPixel_toNat, hch 0 (by decide), hch 1 (by decide), hch 2 (by decide), luminance_self]

/-- GRAY of an image with equal channels reproduces it byte for byte, padding included. -/
theorem afterImage_gray_read (s : State) (p : Nat → Nat → Byte) (len addr cap : Word) {i : Nat} (hi : i < s.imgSize) :
    ((s.afterImage p len addr cap).writeImage (s.afterImage p len addr cap).grayPixel).mem.read (addr.toNat + i)
      = (s.writeImage p).mem.read (s.dstAddr.toNat + i) :=
  calc ((s.afterImage p len addr cap).writeImage (s.afterImage p len addr cap).grayPixel).mem.read (addr.toNat + i)
      = imageByte s.imgW (s.afterImage p len addr cap).grayPixel i := writeImage_read (s.afterImage p len addr cap) _ hi
    _ = imageByte s.imgW p i := imageByte_congr s.imgW s.imgH _ _ (fun _ _ => afterImage_grayPixel s p len addr cap) hi
    _ = (s.writeImage p).mem.read (s.dstAddr.toNat + i) := (writeImage_read s p hi).symm

end Sys2Proof.Machine

open Sys2Proof Sys2Proof.Machine

/-- Settles O32: on ready operands GRAY writes the image of its pixels, each the untruncated luminance. -/
theorem grayWritesTheLuminance : Obligations.GrayWritesTheLuminance := by
  intro s hready
  have himage := hready.1.writesImage s.grayPixel
  simp only [grayPixel_toNat] at himage
  exact ⟨_, exec_gray_of_ready hready, rfl, himage⟩

/-- Settles O54: all three channels hold GRAY's pixel, GRAY of equal channels is the identity, and the weights, none of
them negative, add up to 1000. -/
theorem grayIsAMonotoneIdempotentProjection : Obligations.GrayIsAMonotoneIdempotentProjection := by
  refine ⟨fun s t hready ht => ?_, fun _ _ _ _ _ _ => luminance_mono, luminance_self 0#8, luminance_self 255#8⟩
  obtain rfl : (s.writeImage s.grayPixel).succeed = t := by simpa [exec_gray_of_ready hready] using ht
  have hread := fun r c ch => writeImage_read_pix s s.grayPixel (r := r) (c := c) (ch := ch)
  refine ⟨fun r c hr hc => ?_, fun len addr cap d hd hlen hcap hwin => ?_⟩
  · have h0 := hread r c 0 hr hc (by decide)
    have h1 := hread r c 1 hr hc (by decide)
    have h2 := hread r c 2 hr hc (by decide)
    exact ⟨h0.trans h1.symm, h1.trans h2.symm⟩
  · obtain rfl : d = s.afterImage s.grayPixel len addr cap := hd
    exact ⟨_, exec_gray_of_ready (hready.1.afterImage_ready s.grayPixel hlen hcap hwin), rfl,
      fun _ => afterImage_gray_read s s.grayPixel len addr cap⟩

end

section
/-! SUPPORT. The histogram and the map of it: what HIST counts, what LUT computes, what a map gives at a byte, and the
laws of every map computed from a counted histogram (rules R120 to R124). -/

namespace Sys2Proof.Machine

/-! ### HIST's counts (rule R120) -/

/-- A list of bytes computed position by position holds a byte once for each position that gives it. -/
theorem count_map_eq_sum {ι : Type} (l : List ι) (f : ι → Byte) (b : Byte) :
    (l.map f).count b = (l.map fun x => if f x = b then 1 else 0).sum := by
  induction l with
  | nil => rfl
  | cons x l ih => simp [List.count_cons, ih, Nat.add_comm]

theorem count_intensities (s : State) (k : Fin 256) :
    s.intensities.count (BitVec.ofNat 8 k.val) = s.pixelsOfIntensity k.val := by
  have hbyte : ∀ b : Byte, b = BitVec.ofNat 8 k.val ↔ b.toNat = k.val := fun b => by
    rw [← BitVec.toNat_inj, BitVec.toNat_ofNat, Nat.mod_eq_of_lt k.isLt]
  simp only [State.intensities, List.count_flatMap, Function.comp_def, count_map_eq_sum, hbyte]
  rfl

section
variable {s : State} (h : s.DimsOk)
include h

/-- An accepted image has a pixel, and at most 2^30 (rules R6, R32). -/
theorem State.DimsOk.pixels_bounds : 1 ≤ s.imgW * s.imgH ∧ s.imgW * s.imgH ≤ 2 ^ 30 := by
  obtain ⟨⟨hw1, hw⟩, hh1, hh⟩ := h
  have hW : 1 ≤ s.imgW ∧ s.imgW ≤ s.maxDim := by unfold State.imgW; omega
  have hH : 1 ≤ s.imgH ∧ s.imgH ≤ s.maxDim := by unfold State.imgH; omega
  exact ⟨Nat.mul_pos hW.1 hH.1, pixels_fit (m := s.maxDim) (maxDim_bounds s.params).2 hW.2 hH.2⟩

theorem State.DimsOk.hist_get (k : Fin 256) : ((histEffect s).hist.get k).toNat = s.pixelsOfIntensity k.val := by
  rw [histEffect_hist, Vector.get_ofFn, toNat_count_intensities h.pixels_bounds.2, count_intensities]

theorem State.DimsOk.histN_toNat : (histEffect s).histN.toNat = s.imgW * s.imgH := by
  have hle := h.pixels_bounds.2
  rw [histEffect_histN, BitVec.toNat_ofNat, Nat.mod_eq_of_lt (by omega)]

/-- HIST leaves a histogram LUT accepts (rules R32, R121). -/
theorem State.DimsOk.histN_ne_zero : (histEffect s).histN ≠ 0#32 := by
  have hpos := h.pixels_bounds.1
  rw [← h.histN_toNat] at hpos
  intro hz
  rw [hz] at hpos
  exact absurd hpos (by decide)

theorem State.DimsOk.histogramCounted : HistogramCounted (histEffect s) :=
  histogramCounted_histEffect h.pixels_bounds.2

end

/-! ### The commands of the family (rules R120 to R123, R167) -/

/-- HIST on every state: the first failing check, or its effect. -/
theorem exec_hist_eq (s : State) : exec .hist s = .next (
    if ¬(1 ≤ s32 s.width ∧ s32 s.width ≤ s.maxDim) then s.failedWith 3#4 1#4
    else if ¬(1 ≤ s32 s.height ∧ s32 s.height ≤ s.maxDim) then s.failedWith 3#4 2#4
    else if s.memSize < s.srcAddr.toNat + s.srcLen.toNat then s.failedWith 2#4 1#4
    else if s.srcLen.toNat < s.imgSize then s.failedWith 2#4 3#4
    else (histEffect s).succeed) :=
  State.complete_cons (not_dimOk_iff _ _) <|
  State.complete_cons (not_dimOk_iff _ _) <|
  State.complete_cons decide_eq_true_iff <|
  State.complete_cons decide_eq_true_iff rfl

/-- LUT on every state: its one check, or its effect. -/
theorem exec_lut_eq (s : State) :
    exec .lut s = .next (if s.histN = 0#32 then s.failedWith 6#4 0#4 else (lutEffect s).succeed) :=
  State.complete_cons decide_eq_true_iff rfl

theorem exec_lut_of_counted {s : State} (h : s.histN ≠ 0#32) : exec .lut s = .next (lutEffect s).succeed := by
  rw [exec_lut_eq, if_neg h]

theorem exec_hist_of_ready {s : State} (h : s.HistReady) : exec .hist s = .next (histEffect s).succeed := by
  obtain ⟨⟨hw, hh⟩, hsrc, hread⟩ := h
  rw [exec_hist_eq, if_neg (not_not.mpr hw), if_neg (not_not.mpr hh), if_neg (by omega), if_neg (by omega)]

theorem State.ImageReady.histReady {s : State} {out : Nat} (h : s.ImageReady out) : s.HistReady := by
  obtain ⟨hdims, ⟨hsrc, _⟩, hread, _⟩ := h
  exact ⟨hdims, hsrc, hread⟩

theorem exec_remap_of_ready {s : State} (h : s.ImageReady s.imgSize) :
    exec .remap s = .next (remapEffect s).succeed :=
  exec_of_checks (i := .remap) h.firstError_imageChecks

theorem exec_equalize_of_ready {s : State} (h : s.ImageReady s.imgSize) :
    exec .equalize s = .next (equalizeEffect s).succeed :=
  exec_of_checks (i := .equalize) h.firstError_imageChecks

/-! ### The map LUT computes, and the map at a byte (rules R121, R122) -/

/-- Under rule R32's invariant no entry is truncated. -/
theorem HistogramCounted.lut_get {s : State} (h : HistogramCounted s) (k : Fin 256) :
    ((lutEffect s).lut.get k).toNat = lutEntry s.hist s.histN.toNat k.val := by
  rw [lutEffect_lut, Vector.get_ofFn, BitVec.toNat_ofNat, Nat.mod_eq_of_lt (Nat.lt_succ_of_le (lutEntry_le h k.val))]

/-- The entry for a byte, as an entry of the list of values. -/
theorem lutAt_toNat (s : State) (b : Byte) : (s.lutAt b).toNat = (s.lut.toList.map BitVec.toNat).getD b.toNat 0 := by
  have hb : b.toNat < 256 := b.isLt
  simp [State.lutAt, Vector.get, List.getD, hb, Nat.mod_eq_of_lt hb]

/-- REMAP's effect leaves the image of the LUT's values at the channel-0 bytes. -/
theorem State.DimsOk.remap_writesImage {s : State} (h : s.DimsOk) :
    WritesImage s (remapEffect s).succeed fun r c =>
      (s.lut.toList.map BitVec.toNat).getD (s.mem.read (s.srcAddr.toNat + pix s.imgW r c)).toNat 0 := by
  have himage := h.writesImage s.remapPixel
  simp only [State.remapPixel, lutAt_toNat] at himage
  exact himage

/-! ### The running sum of a histogram (rule R121) -/

theorem vector_toList_eq_ofFn_get {α : Type} {n : Nat} (v : Vector α n) : v.toList = List.ofFn v.get := by
  rw [← Vector.toList_ofFn]
  exact congrArg Vector.toList Vector.ofFn_getElem.symm

theorem cumulative_eq_sum (hist : Vector Word 256) (k : Fin 256) :
    cumulative hist k.val = ∑ j ∈ Finset.Iic k, (hist.get j).toNat := by
  rw [cumulative, vector_toList_eq_ofFn_get, List.map_take, List.map_ofFn, List.sum_take_ofFn]
  refine Finset.sum_congr (Finset.ext fun j => ?_) fun _ _ => rfl
  simp only [Finset.mem_filter, Finset.mem_univ, true_and, Finset.mem_Iic, Fin.le_def, Nat.lt_succ_iff]

/-- Up to the last intensity the running sum is all of HIST_N (rule R32). -/
theorem HistogramCounted.cumulative_last {s : State} (h : HistogramCounted s) :
    cumulative s.hist (Fin.last 255).val = s.histN.toNat := by
  rw [h.1, cumulative, List.take_of_length_le (by simp)]

/-- Where only intensity `j` is present so far, the running sum is its count. -/
theorem cumulative_eq_get {hist : Vector Word 256} {j k : Fin 256} (hjk : j ≤ k)
    (h : ∀ i, i ≤ k → i ≠ j → hist.get i = 0#32) : cumulative hist k.val = (hist.get j).toNat := by
  rw [cumulative_eq_sum]
  refine Finset.sum_eq_single j (fun i hi hij => ?_) fun hj => absurd (Finset.mem_Iic.mpr hjk) hj
  rw [h i (Finset.mem_Iic.mp hi) hij]
  rfl

/-- Where no intensity is present so far, the running sum is 0. -/
theorem cumulative_eq_zero {hist : Vector Word 256} {k : Fin 256} (h : ∀ i, i ≤ k → hist.get i = 0#32) :
    cumulative hist k.val = 0 := by
  rw [cumulative_eq_sum]
  refine Finset.sum_eq_zero fun i hi => ?_
  rw [h i (Finset.mem_Iic.mp hi)]
  rfl

theorem cumulative_uniform {hist : Vector Word 256} {n : Word} (h : ∀ i, hist.get i = n) (k : Fin 256) :
    cumulative hist k.val = (k.val + 1) * n.toNat := by
  simp [cumulative_eq_sum, h]

/-! ### The laws of the map of a counted histogram (rule R124) -/

/-- LUT is the map LUT computes from the state's own HIST and HIST_N, which count at least one pixel. -/
structure MapOfHistogram (t : State) : Prop where
  counted : HistogramCounted t
  nonempty : t.histN ≠ 0#32
  lut_eq : t.lut = (lutEffect t).lut

/-- LUT leaves the map of the histogram it read, which it does not change. -/
theorem mapOfHistogram_lut {s : State} (h : HistogramCounted s) (hn : s.histN ≠ 0#32) :
    MapOfHistogram (lutEffect s).succeed :=
  ⟨h, hn, rfl⟩

/-- EQUALIZE leaves the map of the histogram it counted. -/
theorem mapOfHistogram_equalize {s : State} (h : s.DimsOk) : MapOfHistogram (equalizeEffect s).succeed :=
  ⟨h.histogramCounted, h.histN_ne_zero, rfl⟩

namespace MapOfHistogram

variable {t : State} (h : MapOfHistogram t)
include h

theorem histN_pos : 1 ≤ t.histN.toNat :=
  Nat.one_le_iff_ne_zero.mpr fun hz => h.nonempty (BitVec.eq_of_toNat_eq hz)

theorem lut_get (k : Fin 256) : (t.lut.get k).toNat = 255 * cumulative t.hist k.val / t.histN.toNat := by
  rw [h.lut_eq, h.counted.lut_get]
  rfl

theorem lutMonotone : LutMonotone t := (lutMonotone_lutEffect h.counted).congr h.lut_eq

/-- Where every pixel is counted, the map gives 255. -/
theorem lut_get_of_full {k : Fin 256} (hk : cumulative t.hist k.val = t.histN.toNat) : (t.lut.get k).toNat = 255 := by
  rw [h.lut_get, hk, Nat.mul_div_cancel _ h.histN_pos]

/-- Where no pixel is counted, the map gives 0. -/
theorem lut_get_of_empty {k : Fin 256} (hk : ∀ i, i ≤ k → t.hist.get i = 0#32) : (t.lut.get k).toNat = 0 := by
  rw [h.lut_get, cumulative_eq_zero hk, Nat.mul_zero, Nat.zero_div]

/-- Law (c): of a constant image no pixel is counted below its intensity, and every pixel from there on. -/
theorem lut_get_of_constant {k0 : Fin 256} (hc : ∀ k, k ≠ k0 → t.hist.get k = 0#32) (k : Fin 256) :
    (t.lut.get k).toNat = if k < k0 then 0 else 255 := by
  split
  · next hk => exact h.lut_get_of_empty fun i hi => hc i (hi.trans_lt hk).ne
  · next hk =>
    refine h.lut_get_of_full ?_
    rw [← h.counted.cumulative_last, cumulative_eq_get (not_lt.mp hk) fun i _ => hc i,
      cumulative_eq_get (Fin.le_last k0) fun i _ => hc i]

/-- Law (d): (255 (k + 1) n) div (256 n) = k. -/
theorem lut_get_of_uniform {n : Word} (hu : ∀ k, t.hist.get k = n) (k : Fin 256) : (t.lut.get k).toNat = k.val := by
  have hN : t.histN.toNat = 256 * n.toNat := by
    rw [← h.counted.cumulative_last, cumulative_uniform hu, Fin.val_last]
  have hpos : 0 < n.toNat := by
    have := h.histN_pos
    omega
  rw [h.lut_get, cumulative_uniform hu, hN, ← Nat.mul_assoc, Nat.mul_div_mul_right _ _ hpos]
  omega

/-- Law (f): the map is non-decreasing, so its entry at the smallest intensity present decides. -/
theorem one_le_lut_iff {k1 : Fin 256} (hlow : ∀ k, k < k1 → t.hist.get k = 0#32) :
    (∀ k, k1 ≤ k → 1 ≤ (t.lut.get k).toNat) ↔ t.histN.toNat ≤ 255 * (t.hist.get k1).toNat := by
  have hfirst : 1 ≤ (t.lut.get k1).toNat ↔ t.histN.toNat ≤ 255 * (t.hist.get k1).toNat := by
    rw [h.lut_get, cumulative_eq_get le_rfl fun i hi hne => hlow i (hi.lt_of_ne hne),
      Nat.le_div_iff_mul_le h.histN_pos, Nat.one_mul]
  rw [← hfirst]
  exact ⟨fun hall => hall k1 le_rfl, fun hk1 k hk => hk1.trans (h.lutMonotone k1 k hk)⟩

end MapOfHistogram

end Sys2Proof.Machine

open Sys2Proof Sys2Proof.Machine

/-- Settles O29: each clause takes one branch of the chain; a success keeps an ERRCODE that is not NO_HISTOGRAM's. -/
theorem tableCommandsReportTheFirstFailingCheck : Obligations.TableCommandsReportTheFirstFailingCheck := by
  intro s
  rw [exec_hist_eq]
  refine ⟨fun hw => ?_, fun hw hh => ?_, fun ⟨hw, hh⟩ hsrc => ?_, fun ⟨hw, hh⟩ hsrc hread => ?_, fun hn => ?_,
    fun hn => ⟨_, exec_lut_of_counted hn, rfl, rfl, rfl⟩, fun hcode => ⟨fun hfail => ?_, fun hn => ?_⟩⟩
  · rw [if_pos hw]
  · rw [if_neg (not_not.mpr hw), if_pos hh]
  · rw [if_neg (not_not.mpr hw), if_neg (not_not.mpr hh), if_pos hsrc]
  · rw [if_neg (not_not.mpr hw), if_neg (not_not.mpr hh), if_neg (not_lt.mpr hsrc), if_pos hread]
  · rw [exec_lut_eq, if_pos hn]
  · by_contra hn
    rw [exec_lut_of_counted hn, Host.Outcome.next.injEq] at hfail
    have hsame : s.errCode = 6#4 := congrArg State.errCode hfail
    rw [hcode] at hsame
    exact absurd hsame (by decide)
  · rw [exec_lut_eq, if_pos hn]

/-- Settles O33: on ready operands HIST is its effect, whose counts are not truncated. -/
theorem histCountsEveryPixelOnce : Obligations.HistCountsEveryPixelOnce := fun _ hready =>
  ⟨_, exec_hist_of_ready hready, rfl, hready.1.hist_get, hready.1.histN_toNat⟩

/-- Settles O34: with a histogram LUT is its effect, whose entries are not truncated. -/
theorem lutIsTheTruncatedCdf : Obligations.LutIsTheTruncatedCdf := fun _ hn hcounted =>
  ⟨_, exec_lut_of_counted hn, rfl, hcounted.lut_get⟩

/-- Settles O36: on ready operands REMAP writes the image of the LUT's values. -/
theorem remapMapsThroughTheLut : Obligations.RemapMapsThroughTheLut := fun _ hready =>
  ⟨_, exec_remap_of_ready hready, rfl, hready.1.remap_writesImage⟩

/-- Settles O37: EQUALIZE is HIST's effect, LUT's on its counts, and REMAP's through the new LUT, whose operands the first
two leave alone. -/
theorem equalizeCountsNormalisesAndMaps : Obligations.EqualizeCountsNormalisesAndMaps := by
  intro s hready
  have hdims : s.DimsOk := hready.1
  refine ⟨_, exec_equalize_of_ready hready, rfl, hdims.hist_get, hdims.histN_toNat, fun k => ?_,
    State.DimsOk.remap_writesImage (s := lutEffect (histEffect s)) hdims⟩
  rw [← hdims.histN_toNat]
  exact hdims.histogramCounted.lut_get k

/-- Settles O55: LUT and EQUALIZE both leave the map of the histogram they leave, and each law is one of such maps. -/
theorem equalizationMapLaws : Obligations.EqualizationMapLaws := by
  intro s t hcases
  have h : MapOfHistogram t := by
    obtain ⟨hcounted, hn, ht⟩ | ⟨hready, ht⟩ := hcases
    · obtain rfl : (lutEffect s).succeed = t := by simpa [exec_lut_of_counted hn] using ht
      exact mapOfHistogram_lut hcounted hn
    · obtain rfl : (equalizeEffect s).succeed = t := by simpa [exec_equalize_of_ready hready] using ht
      exact mapOfHistogram_equalize hready.1
  refine ⟨h.histN_pos, fun k hk => h.lutMonotone _ _ ?_, h.lut_get_of_full (k := 255) h.counted.cumulative_last,
    fun k0 => h.lut_get_of_constant, fun n => h.lut_get_of_uniform,
    fun k1 hlow _ => ⟨fun k hk => ?_, h.one_le_lut_iff hlow⟩⟩
  · simp only [Fin.le_def, Fin.val_ofNat]
    omega
  · exact BitVec.eq_of_toNat_eq (h.lut_get_of_empty fun i hi => hlow i (hi.trans_lt hk))

/-- Settles O56: HIST and LUT leave REMAP's operands alone, so each command in turn succeeds, and the successes in between
leave no trace after the last. -/
theorem equalizeEqualsHistLutRemap : Obligations.EqualizeEqualsHistLutRemap := by
  intro s hready
  have hn : (histEffect s).succeed.histN ≠ 0#32 := hready.1.histN_ne_zero
  exact ⟨_, _, _, exec_hist_of_ready hready.histReady, exec_lut_of_counted hn,
    exec_remap_of_ready (s := (lutEffect (histEffect s).succeed).succeed) hready, exec_equalize_of_ready hready⟩

/-- Settles O35: HIST_N is all that LUT checks. -/
theorem lutCompletesWheneverCounted : Obligations.LutCompletesWheneverCounted := fun _ hn =>
  ⟨_, exec_lut_of_counted hn, rfl⟩

end

section
/-! SUPPORT. The edge value of a window: the gradients, the threshold on their squares, and the orientations of the window
that keep it; then SOBEL and the pixels it writes (rules R10, R140 to R143). -/

namespace Sys2Proof.Machine

/-! ### The gradients (rules R140, R142) -/

/-- Mask index 3i + j stands against row i and column j of the window. -/
theorem dotMask_nine (a b c d e f g h k : Int) (w : Nat → Nat → Nat) :
    dotMask [a, b, c, d, e, f, g, h, k] w
      = a * w 0 0 + b * w 0 1 + c * w 0 2 + d * w 1 0 + e * w 1 1 + f * w 1 2 + g * w 2 0 + h * w 2 1 + k * w 2 2 := by
  simp [dotMask, List.range_succ, add_assoc]

theorem dotMask_maskX (w : Nat → Nat → Nat) :
    dotMask maskX w = -w 0 0 - 2 * w 0 1 - w 0 2 + w 2 0 + 2 * w 2 1 + w 2 2 := by
  rw [maskX, dotMask_nine]
  ring

theorem dotMask_maskY (w : Nat → Nat → Nat) :
    dotMask maskY w = -w 0 0 + w 0 2 - 2 * w 1 0 + 2 * w 1 2 - w 2 0 + w 2 2 := by
  rw [maskY, dotMask_nine]
  ring

/-- Both gradients are congruent to the sum of the four corners (rule R142). -/
theorem dotMask_same_parity (w : Nat → Nat → Nat) : (dotMask maskX w - dotMask maskY w) % 2 = 0 := by
  rw [dotMask_maskX, dotMask_maskY]
  omega

/-- Gx² + Gy², what the edge value depends on (rules R140, R141). -/
def gradientSq (w : Nat → Nat → Nat) : Int := dotMask maskX w ^ 2 + dotMask maskY w ^ 2

/-- Gradients of the same parity have squares of the same parity (rule R142). -/
theorem even_gradientSq (w : Nat → Nat → Nat) : Even (gradientSq w) := by
  have hparity : Even (dotMask maskX w - dotMask maskY w) := Int.even_iff.mpr (dotMask_same_parity w)
  rw [gradientSq, Int.even_add, Int.even_pow' two_ne_zero, Int.even_pow' two_ne_zero]
  exact Int.even_sub.mp hparity

/-! ### The threshold (rules R10, R142) -/

theorem isqrt_eq_sqrt (n : Nat) : isqrt n = Nat.sqrt n :=
  Nat.eq_sqrt.mpr (isqrt_spec n)

theorem edgeValue_eq_sqrt (w : Nat → Nat → Nat) :
    edgeValue w = if 100 < Nat.sqrt (gradientSq w).toNat then 255#8 else 0#8 := by
  rw [gradientSq, pow_two, pow_two, ← isqrt_eq_sqrt]
  rfl

/-- The root exceeds 100 exactly when the square reaches 101² = 10201. -/
theorem edgeValue_eq (w : Nat → Nat → Nat) : edgeValue w = if 10201 ≤ gradientSq w then 255#8 else 0#8 := by
  have hroot : 100 < Nat.sqrt (gradientSq w).toNat ↔ 10201 ≤ gradientSq w := by
    rw [← Nat.add_one_le_iff, Nat.le_sqrt]
    omega
  simp only [edgeValue_eq_sqrt, hroot]

theorem edgeValue_eq_white_or_black (w : Nat → Nat → Nat) : edgeValue w = 255#8 ∨ edgeValue w = 0#8 := by
  rw [edgeValue_eq]
  exact ite_eq_or_eq _ _ _

theorem edgeValue_eq_white_iff (w : Nat → Nat → Nat) : edgeValue w = 255#8 ↔ 10201 ≤ gradientSq w := by
  rw [edgeValue_eq]
  exact Ne.ite_eq_left_iff (by decide)

/-- A flat window has no gradient (rule R143). -/
theorem edgeValue_const (k : Nat) : edgeValue (fun _ _ => k) = 0#8 := by
  have hx : dotMask maskX (fun _ _ => k) = 0 := by rw [dotMask_maskX]; ring
  have hy : dotMask maskY (fun _ _ => k) = 0 := by rw [dotMask_maskY]; ring
  rw [edgeValue_eq, gradientSq, hx, hy]
  rfl

/-! ### Orientations of the window (rule R141) -/

theorem edgeValue_of_gradientSq_eq {w w' : Nat → Nat → Nat} (h : gradientSq w' = gradientSq w) :
    edgeValue w' = edgeValue w := by
  rw [edgeValue_eq, h, edgeValue_eq]

/-- Transposition swaps the gradients. -/
theorem gradientSq_transpose (w : Nat → Nat → Nat) : gradientSq (fun i j => w j i) = gradientSq w := by
  have hx : dotMask maskX (fun i j => w j i) = dotMask maskY w := by rw [dotMask_maskX, dotMask_maskY]; ring
  have hy : dotMask maskY (fun i j => w j i) = dotMask maskX w := by rw [dotMask_maskX, dotMask_maskY]; ring
  rw [gradientSq, hx, hy, add_comm, gradientSq]

/-- Reversing the rows negates Gx and keeps Gy. -/
theorem gradientSq_flipRows (w : Nat → Nat → Nat) : gradientSq (fun i j => w (2 - i) j) = gradientSq w := by
  have hx : dotMask maskX (fun i j => w (2 - i) j) = -dotMask maskX w := by simp only [dotMask_maskX]; ring
  have hy : dotMask maskY (fun i j => w (2 - i) j) = dotMask maskY w := by simp only [dotMask_maskY]; ring
  rw [gradientSq, hx, hy, neg_sq, gradientSq]

/-- A rotation by 180 degrees negates both gradients. -/
theorem gradientSq_rotate (w : Nat → Nat → Nat) : gradientSq (fun i j => w (2 - i) (2 - j)) = gradientSq w := by
  have hx : dotMask maskX (fun i j => w (2 - i) (2 - j)) = -dotMask maskX w := by simp only [dotMask_maskX]; ring
  have hy : dotMask maskY (fun i j => w (2 - i) (2 - j)) = -dotMask maskY w := by simp only [dotMask_maskY]; ring
  rw [gradientSq, hx, hy, neg_sq, neg_sq, gradientSq]

/-! ### SOBEL's pixels (rules R140, R143) -/

theorem exec_sobel_of_ready {s : State} (h : s.ImageReady s.imgSize) :
    exec .sobel s = .next (s.writeImage s.sobelPixel).succeed :=
  exec_of_checks (i := .sobel) h.firstError_imageChecks

theorem sobelPixel_of_interior {s : State} {r c : Nat} (h : s.Interior r c) :
    s.sobelPixel r c = edgeValue (s.window r c) := if_pos h

theorem sobelPixel_of_not_interior {s : State} {r c : Nat} (h : ¬s.Interior r c) : s.sobelPixel r c = 0#8 := if_neg h

/-- The gradients of the model's window are those of the intensities around its centre. -/
theorem gradientSq_window (s : State) (r c : Nat) :
    gradientSq (s.window r c) = s.gradX r c ^ 2 + s.gradY r c ^ 2 := by
  rw [gradientSq, dotMask_maskX, dotMask_maskY]
  rfl

theorem sobelPixel_eq_black_or_white (s : State) (r c : Nat) : s.sobelPixel r c = 0#8 ∨ s.sobelPixel r c = 255#8 := by
  by_cases h : s.Interior r c
  · rw [sobelPixel_of_interior h]
    exact (edgeValue_eq_white_or_black _).symm
  · exact .inl (sobelPixel_of_not_interior h)

/-- The window of an interior pixel reads intensities of the picture only. -/
theorem edgeValue_window_eq {s : State} {r c : Nat} (h : s.Interior r c) {f : Nat → Nat → Byte}
    (hf : ∀ r c, r < s.imgH → c < s.imgW → s.srcChannel r c 0 = f r c) :
    edgeValue (s.window r c) = edgeValue fun i j => (f (r - 1 + i) (c - 1 + j)).toNat := by
  obtain ⟨hr1, hr2, hc1, hc2⟩ := h
  exact edgeValue_congr fun i j hi hj => congrArg BitVec.toNat (hf _ _ (by omega) (by omega))

/-- A picture of one intensity has no edge (rule R143 (b)). -/
theorem sobelPixel_of_uniform {s : State} {k : Byte} (hk : ∀ r c, r < s.imgH → c < s.imgW → s.srcChannel r c 0 = k)
    (r c : Nat) : s.sobelPixel r c = 0#8 := by
  by_cases h : s.Interior r c
  · rw [sobelPixel_of_interior h, edgeValue_window_eq h hk, edgeValue_const]
  · exact sobelPixel_of_not_interior h

/-- SOBEL depends on memory through the intensities of the picture only (rule R143 (e)). -/
theorem sobelPixel_withMem {s : State} {m : Memory}
    (hm : ∀ r c, r < s.imgH → c < s.imgW → (s.withMem m).srcChannel r c 0 = s.srcChannel r c 0) (r c : Nat) :
    (s.withMem m).sobelPixel r c = s.sobelPixel r c := by
  by_cases h : s.Interior r c
  · have hm' : (s.withMem m).Interior r c := h
    rw [sobelPixel_of_interior h, sobelPixel_of_interior hm', edgeValue_window_eq hm' hm]
    rfl
  · rw [sobelPixel_of_not_interior h]
    exact sobelPixel_of_not_interior h

/-- Two images of the same pixels are the same bytes, wherever the rest of memory differs. -/
theorem writeImage_read_congr {s : State} (m : Memory) {p p' : Nat → Nat → Byte} (h : ∀ r c, p' r c = p r c) {i : Nat}
    (hi : i < s.imgSize) :
    ((s.withMem m).writeImage p').mem.read (s.dstAddr.toNat + i)
      = (s.writeImage p).mem.read (s.dstAddr.toNat + i) := by
  rw [writeImage_read s p hi, ← imageByte_congr s.imgW s.imgH p' p (fun r c _ _ => h r c) hi]
  exact writeImage_read (s.withMem m) p' hi

/-- An image of black pixels is 0 throughout, padding included. -/
theorem writeImage_read_black {s : State} {p : Nat → Nat → Byte} (h : ∀ r c, p r c = 0#8) {i : Nat}
    (hi : i < s.imgSize) : (s.writeImage p).mem.read (s.dstAddr.toNat + i) = 0#8 := by
  rw [writeImage_read s p hi, imageByte, h, ite_self]

end Sys2Proof.Machine

open Sys2Proof Sys2Proof.Machine

/-- Settles O38: on ready operands SOBEL writes the image of its pixels, and an interior pixel's is the edge value of its
window. -/
theorem sobelWritesTheEdgeMap : Obligations.SobelWritesTheEdgeMap := by
  intro s hready
  refine ⟨_, exec_sobel_of_ready hready, rfl, fun r c hin ch hch => ?_, fun r c hr hc hout ch hch => ?_,
    fun _ _ hr => writeImage_read_padding s s.sobelPixel hr, fun _ => writeImage_read_outside s s.sobelPixel,
    hready.1.writeImage_outLen s.sobelPixel⟩
  · obtain ⟨_, hr, _, hc⟩ := id hin
    refine (writeImage_read_pix s s.sobelPixel (by omega) (by omega) hch).trans ?_
    rw [sobelPixel_of_interior hin, edgeValue_eq_sqrt, gradientSq_window]
  · exact (writeImage_read_pix s s.sobelPixel hr hc hch).trans (sobelPixel_of_not_interior hout)

/-- Settles O57: the output is the image of SOBEL's pixels, and each law is one of those pixels. -/
theorem sobelOutputLaws : Obligations.SobelOutputLaws := by
  intro s t hready ht
  obtain rfl : (s.writeImage s.sobelPixel).succeed = t := by simpa [exec_sobel_of_ready hready] using ht
  refine ⟨fun r c ch hr hc hch hborder => ?_, fun k hk i => writeImage_read_black (sobelPixel_of_uniform hk),
    fun r c hr hc => ?_, fun _ _ hr => writeImage_read_padding s s.sobelPixel hr, fun m u hm hu i => ?_⟩
  · have hout : ¬s.Interior r c := fun ⟨hr1, hr2, hc1, hc2⟩ => by omega
    exact (writeImage_read_pix s s.sobelPixel hr hc hch).trans (sobelPixel_of_not_interior hout)
  · have hread := fun ch => writeImage_read_pix s s.sobelPixel (ch := ch) hr hc
    exact (sobelPixel_eq_black_or_white s r c).imp (fun h ch hch => (hread ch hch).trans h) fun h ch hch =>
      (hread ch hch).trans h
  · have hrun : exec .sobel (s.withMem m) = _ := exec_sobel_of_ready (s := s.withMem m) hready
    obtain rfl : ((s.withMem m).writeImage (s.withMem m).sobelPixel).succeed = u :=
      Host.Outcome.next.inj (hrun.symm.trans hu)
    exact writeImage_read_congr m (sobelPixel_withMem fun r c hr hc => hm r c 0 hr hc (by decide))

/-- Settles O58: 10201 is odd and Gx² + Gy² is even; the two windows at the threshold have squares 10196 and 10202. -/
theorem sobelThresholdArithmetic : Obligations.SobelThresholdArithmetic := by
  refine ⟨fun w => ⟨edgeValue_eq_white_or_black w, edgeValue_eq_white_iff w, dotMask_same_parity w, fun h => ?_⟩,
    by decide, by decide⟩
  have heven : Even (10201 : Int) := h ▸ even_gradientSq w
  exact absurd heven (by decide)

/-- Settles O59: transposing the window swaps its gradients, and flipping or rotating it changes only their signs. -/
theorem sobelOrientationInvariance : Obligations.SobelOrientationInvariance := fun w =>
  ⟨edgeValue_of_gradientSq_eq (gradientSq_transpose w), edgeValue_of_gradientSq_eq (gradientSq_flipRows w),
    edgeValue_of_gradientSq_eq (gradientSq_rotate w)⟩

end

section
/-! SUPPORT. The lifecycle of a command (rules R160 to R163): issue, the completion's turn, a completion as a success or one
listed error; the error fields over every step (rule R165); the check order of the image commands (rule R167). -/

namespace Sys2Proof.Machine

/-! ### The recorded error (rule R165) -/

@[simp] theorem commandEffect_errDetail (s : State) (i : Instr) : (commandEffect s i).errDetail = s.errDetail := by
  cases i <;> rfl

/-- Every error has its row in the table. -/
theorem EngineError.pair_mem_errorPairs (e : EngineError) : (e.code, e.detail) ∈ errorPairs := by cases e <;> decide

/-- Everything one step can do to ERRCODE and ERRDETAIL of `s`: leave both, clear both, or record one error. -/
def ErrorFieldsFrom (s t : State) : Prop :=
  (t.errCode = s.errCode ∧ t.errDetail = s.errDetail)
  ∨ (t.errCode = 0#4 ∧ t.errDetail = 0#4)
  ∨ ∃ e : EngineError, t.errCode = e.code ∧ t.errDetail = e.detail

theorem errorFieldsFrom_fail (s : State) (e : EngineError) : ErrorFieldsFrom s (s.fail e) := .inr (.inr ⟨e, rfl, rfl⟩)

theorem exec_errorFields {i : Instr} {s t : State} (h : exec i s = .next t) : ErrorFieldsFrom s t := by
  obtain ⟨_, rfl⟩ | ⟨e, _, rfl⟩ := exec_cases h
  · exact .inl ⟨by simp, by simp⟩
  · exact errorFieldsFrom_fail s e

/-- A completion records an error or leaves the fields alone. -/
theorem engineStep_errorFields {s t : State} (h : engineStep s = .next t) : ErrorFieldsFrom s t := by
  obtain ⟨i, _, hi⟩ | ⟨e, _, rfl⟩ := engineStep_cases h
  · exact exec_errorFields hi
  · exact errorFieldsFrom_fail s _

theorem softReset_errorFields (s : State) : ErrorFieldsFrom s s.softReset := by
  rw [State.softReset_eq]
  exact .inr (.inl ⟨rfl, rfl⟩)

theorem hardReset_errorFields (s : State) : ErrorFieldsFrom s s.hardReset := by
  rw [State.hardReset_eq]
  exact .inr (.inl ⟨rfl, rfl⟩)

/-- Among the register writes only an issue and a soft reset touch the fields, and both clear them (rules R160, R191). -/
theorem csrWrite_errorFields (s : State) (r : Csr) (v : Word) : ErrorFieldsFrom s (csrWrite s r v) := by
  obtain ⟨_, e⟩ | ⟨_, e⟩ | ⟨_, _, e⟩ | ⟨_, e⟩ | ⟨_, _, _, _, _, _, _, e⟩ | e := csrWrite_cases s r v <;> rw [e]
  · obtain ⟨_, e'⟩ | ⟨_, e'⟩ := writeCtrl_cases s v <;> rw [e']
    · exact .inl ⟨rfl, rfl⟩
    · exact softReset_errorFields s
  · exact .inl ⟨rfl, rfl⟩
  · exact .inr (.inl ⟨rfl, rfl⟩)
  all_goals exact .inl ⟨rfl, rfl⟩

theorem access_errorFields {s t : State} {op : HostOp} (h : access s op = .next t) : ErrorFieldsFrom s t := by
  obtain ⟨w, off, v, _, _, rfl⟩ | ⟨n, v, l, rfl, _⟩ | ⟨w, a, v, _, _, _, rfl⟩ | ⟨_, rfl⟩ := access_cases h
  · exact csrWrite_errorFields s _ v
  · exact .inl ⟨rfl, rfl⟩
  · exact .inl ⟨rfl, rfl⟩
  · exact hardReset_errorFields s

theorem hostStep_errorFields {s t : State} (h : hostStep s = .next t) : ErrorFieldsFrom s t := by
  obtain ⟨_, rfl⟩ | ⟨op, rest, _, ha⟩ := hostStep_cases h
  · exact .inl ⟨rfl, rfl⟩
  · exact access_errorFields (s := { s with host := rest }) ha

theorem step_errorFields {s t : State} (h : step s = .next t) : ErrorFieldsFrom s t := by
  obtain ⟨_, e⟩ | ⟨_, _, e⟩ | ⟨_, e⟩ := step_cases s
  · exact engineStep_errorFields (e.symm.trans h)
  · exact hostStep_errorFields (s := s.tick) (e.symm.trans h)
  · exact hostStep_errorFields (e.symm.trans h)

/-! ### The command at its turn (rules R160, R161) -/

theorem engineStep_of_command {s : State} {i : Instr} (h : decode s.cmd = .command i) : engineStep s = exec i s := by
  simp [engineStep, h]

/-- Placing the low 32 bits of a word's own value places that word (log entry 12). -/
theorem withFetchWord_toNat (s : State) (w : Word) : s.withFetchWord 32 w.toNat = s.issueAfter w 0 := by
  rw [State.withFetchWord, State.withCommand, Nat.mod_eq_of_lt w.isLt, BitVec.ofNat_toNat, BitVec.setWidth_eq]

/-! ### The commands on an image (rules R166, R167) -/

/-- The checks of an image command on every state, the first that fails deciding the completion. -/
theorem complete_imageChecks_eq (s : State) (out : Nat) (effect : State) :
    s.complete (imageChecks s out) effect = .next (
      if ¬(1 ≤ s32 s.width ∧ s32 s.width ≤ s.maxDim) then s.failedWith 3#4 1#4
      else if ¬(1 ≤ s32 s.height ∧ s32 s.height ≤ s.maxDim) then s.failedWith 3#4 2#4
      else if s.memSize < s.srcAddr.toNat + s.srcLen.toNat then s.failedWith 2#4 1#4
      else if s.memSize < s.dstAddr.toNat + s.dstLen.toNat then s.failedWith 2#4 2#4
      else if (chkOverlap s).1 = true then s.failedWith 5#4 0#4
      else if s.srcLen.toNat < s.imgSize then s.failedWith 2#4 3#4
      else if s.dstLen.toNat < out then s.failedWith 2#4 4#4
      else effect.succeed) :=
  State.complete_cons (not_dimOk_iff _ _) <|
  State.complete_cons (not_dimOk_iff _ _) <|
  State.complete_cons decide_eq_true_iff <|
  State.complete_cons decide_eq_true_iff <|
  State.complete_cons Iff.rfl <|
  State.complete_cons decide_eq_true_iff <|
  State.complete_cons decide_eq_true_iff rfl

/-- Each image command makes the one list of checks, for its own number of output bytes. -/
theorem exec_of_image_command {s : State} {i : Instr} {out : Nat}
    (h : (i, out) ∈ [(Instr.encode, 54 + s.imgSize), (.gray, s.imgSize), (.remap, s.imgSize), (.equalize, s.imgSize),
      (.sobel, s.imgSize)]) : exec i s = s.complete (imageChecks s out) (commandEffect s i) := by
  simp only [List.mem_cons, Prod.mk.injEq, List.not_mem_nil, or_false] at h
  obtain ⟨rfl, rfl⟩ | ⟨rfl, rfl⟩ | ⟨rfl, rfl⟩ | ⟨rfl, rfl⟩ | ⟨rfl, rfl⟩ := h <;> exact exec_eq_complete _ s

end Sys2Proof.Machine

open Sys2Proof Sys2Proof.Machine

/-- Settles O46: a step leaves the recorded pair, clears it, or records the pair of an error, which the table lists. -/
theorem stepKeepsErrorPairListed : Obligations.StepKeepsErrorPairListed := by
  intro s t hs h
  unfold ErrorPairListed at hs ⊢
  obtain ⟨hc, hd⟩ | ⟨hc, hd⟩ | ⟨e, hc, hd⟩ := step_errorFields h <;> rw [hc, hd]
  · exact hs
  · decide
  · exact e.pair_mem_errorPairs

/-- Settles O26: the first failing check, if there is one, decides between the one failure and the effect with success. -/
theorem commandsCompleteWhollyOrNotAtAll : Obligations.CommandsCompleteWhollyOrNotAtAll := by
  intro i s
  cases hc : firstError (commandChecks s i) with
  | none =>
    exact ⟨_, exec_of_checks hc, rfl, rfl,
      .inl ⟨commandEffect_err s i, commandEffect_errCode s i, commandEffect_errDetail s i⟩⟩
  | some e =>
    exact ⟨_, (exec_eq_complete i s).trans (State.complete_of_some _ _ _ e hc), rfl, rfl,
      .inr ⟨e.code, e.detail, e.code_ne_zero, e.pair_mem_errorPairs, s.fail_eq_failedWith e⟩⟩

/-- Settles O27: each clause takes one branch of the chain of checks. -/
theorem imageCommandsReportTheFirstFailingCheck : Obligations.ImageCommandsReportTheFirstFailingCheck := by
  intro s i out hmem
  rw [exec_of_image_command hmem, complete_imageChecks_eq]
  refine ⟨fun hw => ?_, fun hw hh => ?_, fun ⟨hw, hh⟩ hsrc => ?_, fun ⟨hw, hh⟩ hsrc hdst => ?_,
    fun ⟨hw, hh⟩ hsrc hdst hshare => ?_, fun ⟨hw, hh⟩ ⟨hsrc, hdst, hdisj⟩ hread => ?_,
    fun ⟨hw, hh⟩ ⟨hsrc, hdst, hdisj⟩ hread hwrite => ?_⟩
  · simp [hw]
  · simp [hw, hh]
  · simp [hw, hh, hsrc]
  · simp [hw, hh, hsrc.not_gt, hdst]
  · simp [hw, hh, hsrc.not_gt, hdst.not_gt, (chkOverlap_iff s).mpr hshare]
  · simp [hw, hh, hsrc.not_gt, hdst.not_gt, (chkOverlap_eq_false_iff s).mpr hdisj, hread]
  · simp [hw, hh, hsrc.not_gt, hdst.not_gt, (chkOverlap_eq_false_iff s).mpr hdisj, hread.not_gt, hwrite]

/-- Settles O4: at its turn the step is the completion, and the completion of a decoded command is its execution. -/
theorem stepRunsTheDecodedCommand : Obligations.StepRunsTheDecodedCommand := fun _ _ _ hb ht hd =>
  (step_of_turn hb ht).trans (engineStep_of_command hd)

/-- Settles O5: the word placed is the command's encoding, issued with no access before its completion. -/
theorem placedWordRunsNext : Obligations.PlacedWordRunsNext := by
  intro s i _
  rw [withFetchWord_toNat, step_of_turn rfl (.inl rfl), engineStep_of_command (decode_encode i)]
  rfl

/-- Settles O8: the gate lets the issue through while IDLE and drops the write while BUSY. -/
theorem commandWriteIssues : Obligations.CommandWriteIssues := by
  intro s v
  rw [access_csrWrite s v rfl]
  exact ⟨fun hi => ⟨Config.freeDelay s.draws, congrArg _ (whenIdle_of_idle _ hi)⟩,
    fun hb => congrArg _ (whenIdle_of_busy _ hb)⟩

end

section
/-! SUPPORT. Reset, the hazards and the wait (rules R190 to R198): what an abandoned command leaves in memory, reads of the
tables while they are written, accesses that race with the windows, and a POLL of BUSY that sees the completion. -/

namespace Sys2Proof.Machine

/-! ### The memory of an abandoned command (rules R190, R191) -/

theorem State.abandon_mem_of_busy {s : State} (hb : s.phase = .busy) :
    s.abandon.mem = s.mem.fill s.dstAddr.toNat (fun i => Config.freeByte (s.draws + i)) s.dstBytesInMemory := by
  simp [State.abandon, hb]

/-- The bytes of the destination window that exist are the first `dstBytesInMemory` of it (rules R28, R50). -/
theorem inDst_in_memory_iff (s : State) (a : Nat) :
    a < s.memSize ∧ s.InDst a ↔ s.dstAddr.toNat ≤ a ∧ a < s.dstAddr.toNat + s.dstBytesInMemory := by
  unfold State.InDst State.dstBytesInMemory
  omega

theorem State.abandon_read_inside {s : State} (hb : s.phase = .busy) {a : Nat} (ha : a < s.memSize ∧ s.InDst a) :
    s.abandon.mem.read a = Config.freeByte (s.draws + (a - s.dstAddr.toNat)) := by
  rw [State.abandon_mem_of_busy hb, Memory.read_fill, if_pos ((inDst_in_memory_iff s a).mp ha)]

theorem State.abandon_read_of_not_inside {s : State} (hb : s.phase = .busy) {a : Nat}
    (ha : ¬(a < s.memSize ∧ s.InDst a)) : s.abandon.mem.read a = s.mem.read a := by
  rw [State.abandon_mem_of_busy hb, Memory.read_fill, if_neg (mt (inDst_in_memory_iff s a).mpr ha)]

/-- What both resets do to memory and to the counter of free values, in either phase. -/
theorem State.abandon_spec (s : State) :
    (s.phase = .idle → s.abandon.mem = s.mem ∧ s.abandon.draws = s.draws)
    ∧ (s.phase = .busy → ∀ a, a < s.memSize → s.InDst a →
        s.abandon.mem.read a = Config.freeByte (s.draws + (a - s.dstAddr.toNat)))
    ∧ (s.phase = .busy → ∀ a, ¬(a < s.memSize ∧ s.InDst a) → s.abandon.mem.read a = s.mem.read a) :=
  ⟨fun hi => by rw [State.abandon_of_idle s hi]; exact ⟨rfl, rfl⟩,
    fun hb _ hm hd => State.abandon_read_inside hb ⟨hm, hd⟩,
    fun hb _ ha => State.abandon_read_of_not_inside hb ha⟩

/-! ### Reads of the tables (rules R36, R37, R195) -/

/-- The commands that write HIST or LUT, by their words (rules R71, R195). -/
theorem writesTables_iff (s : State) : s.writesTables = true ↔ s.cmd = 4#32 ∨ s.cmd = 5#32 ∨ s.cmd = 7#32 := by
  have hhist := decode_eq_command_iff s.cmd .hist
  have hlut := decode_eq_command_iff s.cmd .lut
  have hequalize := decode_eq_command_iff s.cmd .equalize
  change _ ↔ s.cmd = encode .hist ∨ s.cmd = encode .lut ∨ s.cmd = encode .equalize
  rw [← hhist, ← hlut, ← hequalize, State.writesTables]
  split
  · next hd => simp [hd]
  · next hd => simp [hd]
  · next hd => simp [hd]
  · next hh hl he => exact iff_of_false Bool.false_ne_true fun h => h.elim hh (·.elim hl he)

theorem readIsFree_iff (s : State) {r : Csr} (hr : r.isTable = true) :
    readIsFree s r = true ↔ s.phase = .busy ∧ (s.cmd = 4#32 ∨ s.cmd = 5#32 ∨ s.cmd = 7#32) := by
  simp [readIsFree, hr, State.busy, writesTables_iff]

theorem access_csrRead_of_free {s : State} {off : BitVec 12} (ho : off.toNat % 4 = 0)
    (hf : readIsFree s (Csr.ofOffset off) = true) :
    access s (.csrRead .b32 off) = .next { s with
      hostReads := (Config.freeWord s.draws).setWidth 64 :: s.hostReads, draws := s.draws + 1 } := by
  simp [access, accessCsrRead, csrFormOk_b32 ho, csrRead, hf, State.returned]

theorem access_csrRead_of_not_free {s : State} {off : BitVec 12} (ho : off.toNat % 4 = 0)
    (hf : ¬readIsFree s (Csr.ofOffset off) = true) :
    access s (.csrRead .b32 off)
      = .next { s with hostReads := (csrValue s (Csr.ofOffset off)).setWidth 64 :: s.hostReads } := by
  simp [access, accessCsrRead, csrFormOk_b32 ho, csrRead, hf, State.returned]

/-- A host read of a table entry, in terms of the register instead of its offset. -/
theorem access_csrRead_table (s : State) {r : Csr} (hr : r.isTable = true) :
    (s.phase = .busy ∧ (s.cmd = 4#32 ∨ s.cmd = 5#32 ∨ s.cmd = 7#32) →
      access s (.csrRead .b32 r.offset) = .next { s with
        hostReads := (Config.freeWord s.draws).setWidth 64 :: s.hostReads, draws := s.draws + 1 })
    ∧ (¬(s.phase = .busy ∧ (s.cmd = 4#32 ∨ s.cmd = 5#32 ∨ s.cmd = 7#32)) →
      access s (.csrRead .b32 r.offset) = .next { s with hostReads := (csrValue s r).setWidth 64 :: s.hostReads }) := by
  have hoff : Csr.ofOffset r.offset = r := ofOffset_offset (by rintro rfl; cases hr)
  rw [← readIsFree_iff s hr]
  refine ⟨fun hf => access_csrRead_of_free (offset_aligned r) (by rwa [hoff]), fun hf => ?_⟩
  rw [access_csrRead_of_not_free (offset_aligned r) (by rwa [hoff]), hoff]

/-! ### Accesses that race with the windows (rule R193) -/

theorem touchesSrc_iff (s : State) (addr n : Nat) :
    s.touchesSrc addr n = true ↔ ∃ a, addr ≤ a ∧ a < addr + n ∧ s.InSrc a :=
  (touches_iff _ _ _ _).trans (exists_congr fun _ => and_assoc)

theorem touchesDst_iff (s : State) (addr n : Nat) :
    s.touchesDst addr n = true ↔ ∃ a, addr ≤ a ∧ a < addr + n ∧ s.InDst a :=
  (touches_iff _ _ _ _).trans (exists_congr fun _ => and_assoc)

/-- An access touches one of the windows exactly when one of its bytes is in one of them. -/
theorem touches_window_iff (s : State) (addr n : Nat) :
    (s.touchesSrc addr n || s.touchesDst addr n) = true
      ↔ ∃ a, addr ≤ a ∧ a < addr + n ∧ (s.InSrc a ∨ s.InDst a) := by
  rw [Bool.or_eq_true, touchesSrc_iff, touchesDst_iff, ← exists_or]
  simp only [← and_or_left]

section
variable {s : State} {w : Width} {addr : Nat} (hb : s.phase = .busy) (hfit : addr + w.bytes ≤ s.memSize)
include hb hfit

/-- A write while BUSY, inside memory: the test of the windows alone decides. -/
theorem access_memWrite_of_busy (v : DWord) :
    access s (.memWrite w addr v) =
      if s.touchesSrc addr w.bytes || s.touchesDst addr w.bytes then .fault .hostRace
      else .next { s with mem := memWriteLE s.mem addr w.bytes v.toNat } := by
  simp [access, accessMemWrite, State.busy, hb, hfit]

/-- A read while BUSY, inside memory: only the destination window matters. -/
theorem access_memRead_of_busy :
    access s (.memRead w addr) =
      if s.touchesDst addr w.bytes then .fault .hostRace
      else .next { s with hostReads := BitVec.ofNat 64 (memReadLE s.mem addr w.bytes) :: s.hostReads } := by
  simp [access, accessMemRead, State.busy, hb, hfit, State.returned]

end

/-- Byte `i` of a little-endian write (rules R12, R53). -/
theorem memWriteLE_read_toNat (m : Memory) (addr v : Nat) {n i : Nat} (hi : i < n) :
    ((memWriteLE m addr n v).read (addr + i)).toNat = v / 2 ^ (8 * i) % 256 := by
  rw [memWriteLE, Memory.read_fill_inside _ _ _ _ _ hi, leByte_toNat, pow_mul]
  rfl

/-! ### A host that waits (rules R161, R198) -/

/-- Bit 0 of STATUS alone is BUSY (rule R26). -/
theorem statusWord_and_one_ne_zero {s : State} (hb : s.phase = .busy) : statusWord s &&& 0x1#32 ≠ 0x0#32 := by
  intro h
  have hbit : (statusWord s).toNat % 2 = 0 := by
    rw [← Nat.and_one_is_mod]
    exact congrArg BitVec.toNat h
  have hval := statusWord_toNat s
  have hone : s.busy.toNat = 1 := by simp [State.busy, hb]
  omega

/-- While BUSY a WAIT reads STATUS and stays the host's next access (rules R79, R80; log entry 15). -/
theorem access_wait_of_busy {s : State} (hb : s.phase = .busy) :
    access s opWait = .next { s with
      hostReads := (statusWord s).setWidth 64 :: s.hostReads, host := opWait :: s.host } := by
  have hread : csrRead s .status = (statusWord s, s) := rfl
  change accessCsrPoll s (Csr.offset .status) 0x1#32 0x0#32 = _
  simp only [accessCsrPoll, csrFormOk_b32 (offset_aligned .status), ofOffset_offset (r := .status) (by decide), hread,
    statusWord_and_one_ne_zero hb, if_true, if_false]
  rfl

/-- The host's turn of a waiting host while BUSY changes only the wait and what the host has read. -/
theorem step_wait {s : State} {rest : List HostOp} (hb : s.phase = .busy) (hw : s.wait ≠ 0)
    (hh : s.host = opWait :: rest) :
    step s = .next { s with hostReads := (statusWord s).setWidth 64 :: s.hostReads, wait := s.wait - 1 } := by
  have hpoll := access_wait_of_busy (s := { s.tick with host := rest }) hb
  rw [step_of_waiting hb hw (by simp [hh]), hostStep_cons (s := s.tick) hh, hpoll, ← hh]
  rfl

@[simp] theorem commandEffect_host (s : State) (i : Instr) : (commandEffect s i).host = s.host := by
  rw [commandEffect_frame s i]

/-- Every completion ends IDLE and DONE and leaves the host's program (rules R161 to R163). -/
theorem exists_engineStep (s : State) :
    ∃ t, engineStep s = .next t ∧ t.phase = .idle ∧ t.done = true ∧ t.host = s.host := by
  cases hd : decode s.cmd with
  | illegal e => exact ⟨_, engineStep_of_illegal hd, rfl, rfl, rfl⟩
  | command i =>
    rw [engineStep_of_command hd, exec_eq_complete]
    cases hc : firstError (commandChecks s i) with
    | none => exact ⟨_, State.complete_of_none _ _ _ hc, rfl, rfl, commandEffect_host s i⟩
    | some e => exact ⟨_, State.complete_of_some _ _ _ e hc, rfl, rfl, rfl⟩

theorem run_succ_of_step {M : Host.Core} {s t : M.State} (k : Nat) (h : M.step s = .next t) :
    M.run (k + 1) s = M.run k t := by
  rw [Host.Core.run, h]

/-- By induction on the number of accesses before the completion: each of them is one more read of STATUS. -/
theorem run_wait (n : Nat) (rest : List HostOp) (s : State) (hb : s.phase = .busy) (hw : s.wait = n)
    (hh : s.host = opWait :: rest) :
    ∃ t : State, Host.Core.run core (n + 1) s = .next t ∧ t.phase = .idle ∧ t.done = true ∧ t.host = opWait :: rest := by
  induction n generalizing s with
  | zero =>
    obtain ⟨t, ht, hidle, hdone, hhost⟩ := exists_engineStep s
    exact ⟨t, run_succ_of_step (M := core) 0 ((step_of_turn hb (.inl hw)).trans ht), hidle, hdone, hhost.trans hh⟩
  | succ n ih =>
    rw [run_succ_of_step (M := core) (n + 1) (step_wait hb (by omega) hh)]
    exact ih _ hb (by simp [hw]) hh

end Sys2Proof.Machine

open Sys2Proof Sys2Proof.Machine

/-- Settles O13: bit 1 makes the write a soft reset, which abandons the command before it resets the registers. -/
theorem softResetAbandonsAndResets : Obligations.SoftResetAbandonsAndResets := by
  intro s v h
  refine ⟨s.abandon.mem, s.abandon.draws, ?_, s.abandon_spec⟩
  obtain ⟨hv, _⟩ | ⟨_, e⟩ := writeCtrl_cases s v
  · rw [h] at hv; cases hv
  · rw [access_writeCtrl, e, State.softReset_eq]
    rfl

/-- Settles O14: the platform's reset abandons a running command in the same way as a soft reset. -/
theorem platformResetResetsEngine : Obligations.PlatformResetResetsEngine := fun s =>
  ⟨s.abandon.mem, s.abandon.draws, congrArg _ s.hardReset_eq, s.abandon_spec⟩

/-- Settles O20: HIST[k] and LUT[k] stand at these offsets, and a read of either is free exactly in the first case. -/
theorem tableReadsAreFreeOnlyWhileTablesAreWritten : Obligations.TableReadsAreFreeOnlyWhileTablesAreWritten := by
  intro s k
  obtain ⟨hhistFree, hhist⟩ := access_csrRead_table s (r := .hist k) rfl
  obtain ⟨hlutFree, hlut⟩ := access_csrRead_table s (r := .lut k) rfl
  refine ⟨fun hb hc => ⟨hhistFree ⟨hb, hc⟩, hlutFree ⟨hb, hc⟩⟩, fun hn => ⟨hhist hn, ?_⟩⟩
  have hext : ((s.lut.get k).setWidth 32).setWidth 64 = (s.lut.get k).setWidth 64 :=
    BitVec.setWidth_setWidth (by decide)
  rw [← hext]
  exact hlut hn

/-- Settles O23: a window is touched exactly when it shares a byte with the access, and what is let through is a
little-endian write or read. -/
theorem windowRaceIsAFault : Obligations.WindowRaceIsAFault := by
  intro s w addr v hb hfit
  rw [access_memWrite_of_busy hb hfit, access_memRead_of_busy hb hfit]
  refine ⟨fun hwin => if_pos ((touches_window_iff _ _ _).mpr hwin), fun hdst => if_pos ((touchesDst_iff _ _ _).mpr hdst),
    fun hout => ?_, fun hout => ?_⟩
  · have hclear : ¬∃ a, addr ≤ a ∧ a < addr + w.bytes ∧ (s.InSrc a ∨ s.InDst a) :=
      fun ⟨a, hlo, hhi, hwin⟩ => not_or.mpr (hout a hlo hhi) hwin
    exact ⟨_, if_neg (mt (touches_window_iff _ _ _).mp hclear), fun i hi => memWriteLE_read_toNat _ _ _ hi,
      fun a ha => Memory.read_fill_outside _ _ _ _ _ ha⟩
  · have hclear : ¬∃ a, addr ≤ a ∧ a < addr + w.bytes ∧ s.InDst a := fun ⟨a, hlo, hhi, hdst⟩ => hout a hlo hhi hdst
    refine ⟨_, if_neg (mt (touchesDst_iff _ _ _).mp hclear), ?_⟩
    rw [memReadLE_width_toNat, memReadLE_eq_sum]
    simp only [pow_mul]
    rfl

/-- Settles O51: while BUSY a WAIT stays the next access, so the reads of it count the wait down to the completion. -/
theorem waitEndsWithTheCompletion : Obligations.WaitEndsWithTheCompletion := fun s rest hb hh =>
  run_wait s.wait rest s hb rfl hh

end
